-- ==== Sys2Proof/Word.lean ====
section
/-! DEFINITION. The widths of the block's values: bytes of the buffers, 16-bit fields and checksums, 32-bit registers (R8, R23). -/

namespace Sys2Proof

/-- One byte of a buffer or of a byte sequence (R10). -/
abbrev Byte := BitVec 8

/-- A 16-bit field: a port, a length, a checksum (R33, R124). -/
abbrev Half := BitVec 16

/-- A register (R8: `REG_WIDTH` = 32). -/
abbrev Word := BitVec 32

end Sys2Proof
end

