-- ==== Sys2Proof/Syntax.lean ====
section
/-! DEFINITION. The commands of the block (R91), and the three fields of a command word (R90). -/

namespace Sys2Proof

/-- The commands, one constructor per row of spec/opcode_table.json. Every operand but DEV_WRITE's ARG0 bit is a
register that the command reads (R99), so only DEV_WRITE carries anything. -/
inductive Instr
  /-- NOP (R210). -/
  | nop
  /-- CSUM (R126). -/
  | csum
  /-- CSUM_UDP (R127). -/
  | csumUdp
  /-- PARSE_SRC (R140). -/
  | parseSrc
  /-- PARSE_DST (R141). -/
  | parseDst
  /-- IP_ENC (R145). -/
  | ipEnc
  /-- TCP_ENC (R162). -/
  | tcpEnc
  /-- UDP_ENC (R172). -/
  | udpEnc
  /-- SEND_UDP (R200). -/
  | sendUdp
  /-- DEV_OPEN (R185). -/
  | devOpen
  /-- DEV_READ (R186). -/
  | devRead
  /-- DEV_WRITE (R187); `arg0` is `CMD[8]`: false sends `IBUF[0 : LEN]`, true sends `OBUF[0 : OLEN]` (R90). -/
  | devWrite (arg0 : Bool)
  /-- DEV_CLOSE (R188). -/
  | devClose
  deriving DecidableEq, Repr

/-- The fields of a command word (R90): [31:9] reserved, [8] ARG0, [7:0] OPC. -/
structure CommandWord where
  rsvd : BitVec 23
  arg0 : Bool
  opc  : BitVec 8
  deriving DecidableEq, Repr

end Sys2Proof
end

