-- ==== Sys2Proof/WellFormed.lean ====
section
/-! DEFINITION. Which command words are legal (R92), field by field, and which commands are well formed. -/

namespace Sys2Proof

/-- R92, second item: `CMD[31:9]` = 0. -/
def CommandWord.reservedClear (c : CommandWord) : Bool := c.rsvd == 0#23

/-- R92, first item: OPC is none of 0x03-0x07, 0x0A-0x0F, 0x11-0x1F, 0x21-0x2F, 0x31-0x3F, 0x41-0x4F, 0x54-0xFF. -/
def CommandWord.opcodeListed (c : CommandWord) : Bool :=
  let n := c.opc.toNat
  !(decide (0x03 ≤ n ∧ n ≤ 0x07) || decide (0x0A ≤ n ∧ n ≤ 0x0F) || decide (0x11 ≤ n ∧ n ≤ 0x1F)
    || decide (0x21 ≤ n ∧ n ≤ 0x2F) || decide (0x31 ≤ n ∧ n ≤ 0x3F) || decide (0x41 ≤ n ∧ n ≤ 0x4F)
    || decide (0x54 ≤ n))

/-- R92, third item: ARG0 = 1 only with OPC 0x52. -/
def CommandWord.arg0Allowed (c : CommandWord) : Bool := !c.arg0 || c.opc == 0x52#8

/-- A command word is legal when none of R92's three items holds. -/
def CommandWord.wellFormed (c : CommandWord) : Bool :=
  c.reservedClear && c.opcodeListed && c.arg0Allowed

/-- Every command of the syntax is well formed: commands have no operand fields (R99), and both values of DEV_WRITE's
ARG0 are legal (R90). What can be ill formed is a command WORD, above. -/
def Instr.wellFormed : Instr → Bool
  | .nop | .csum | .csumUdp | .parseSrc | .parseDst | .ipEnc | .tcpEnc | .udpEnc | .sendUdp => true
  | .devOpen | .devRead | .devClose => true
  | .devWrite _ => true

end Sys2Proof
end

