-- ==== Sys2Proof/Decode.lean ====
section
/-! DEFINITION. Decoding of command words (R90-R92, R94), total on all 2^32 words, and the encoder. -/

namespace Sys2Proof

/-- Why a command word is illegal: R92's three items, each by name. -/
inductive DecodeError
  /-- `CMD[31:9]` ≠ 0. -/
  | reservedBits
  /-- OPC is not in the opcode map R91. -/
  | unlistedOpcode
  /-- ARG0 = 1 with an OPC other than DEV_WRITE's. -/
  | arg0NotAllowed
  deriving DecidableEq, Repr

/-- The fields of a 32-bit command word (R90). -/
def CommandWord.ofWord (w : Word) : CommandWord :=
  { rsvd := w.extractLsb' 9 23, arg0 := w.getLsbD 8, opc := w.extractLsb' 0 8 }

/-- The word with these fields (R90). -/
def CommandWord.toWord (c : CommandWord) : Word := c.rsvd ++ BitVec.ofBool c.arg0 ++ c.opc

/-- The opcode map R91, without DEV_WRITE, whose row has ARG0 free. -/
def opcodeMap : List (BitVec 8 × Instr) :=
  [ (0x00#8, .nop), (0x01#8, .csum), (0x02#8, .csumUdp), (0x08#8, .parseSrc), (0x09#8, .parseDst), (0x10#8, .ipEnc),
    (0x20#8, .tcpEnc), (0x30#8, .udpEnc), (0x40#8, .sendUdp), (0x50#8, .devOpen), (0x51#8, .devRead),
    (0x53#8, .devClose) ]

/-- The opcode of DEV_WRITE (R91). -/
def devWriteOpcode : BitVec 8 := 0x52#8

/-- R94: the command of a legal word, or the name of what makes the word illegal (R92). -/
def CommandWord.decode (c : CommandWord) : Except DecodeError Instr :=
  if c.rsvd ≠ 0#23 then .error .reservedBits
  else if c.opc = devWriteOpcode then .ok (.devWrite c.arg0)
  else match opcodeMap.lookup c.opc with
    | none => .error .unlistedOpcode
    | some i => if c.arg0 then .error .arg0NotAllowed else .ok i

/-- The decoder: from the 32 bits written to `CMD` (R107: every command is exactly one 32-bit word). -/
def decode (w : Word) : Except DecodeError Instr := (CommandWord.ofWord w).decode

/-- OPC of each command (R91). -/
def Instr.opcode : Instr → BitVec 8
  | .nop => 0x00#8
  | .csum => 0x01#8
  | .csumUdp => 0x02#8
  | .parseSrc => 0x08#8
  | .parseDst => 0x09#8
  | .ipEnc => 0x10#8
  | .tcpEnc => 0x20#8
  | .udpEnc => 0x30#8
  | .sendUdp => 0x40#8
  | .devOpen => 0x50#8
  | .devRead => 0x51#8
  | .devWrite _ => 0x52#8
  | .devClose => 0x53#8

/-- ARG0 of each command: 0 but for DEV_WRITE (R90). -/
def Instr.arg0 : Instr → Bool
  | .devWrite a => a
  | .nop | .csum | .csumUdp | .parseSrc | .parseDst | .ipEnc | .tcpEnc | .udpEnc | .sendUdp => false
  | .devOpen | .devRead | .devClose => false

/-- The encoder: the command word of a command (R90, R91). -/
def encode (i : Instr) : Word := CommandWord.toWord { rsvd := 0#23, arg0 := i.arg0, opc := i.opcode }

/-- The command the decoder reads from the `nbits` low bits of `w`, every bit above them 0. A command is one 32-bit
word (R107), so nothing longer is a command. -/
def decodeTableWord (nbits w : Nat) : Option Instr :=
  if nbits ≤ 32 then
    match decode (BitVec.ofNat 32 (w % 2 ^ nbits)) with
    | .ok i => some i
    | .error _ => none
  else none

end Sys2Proof
end

