-- ==== Sys2Proof/Config.lean ====
section
/-! DEFINITION. What one instance of the block fixes (R8), and the free values the spec leaves open: constants with no
body, so that no proof can know a value of one. -/

namespace Sys2Proof.Config

/-- `IBUF_SIZE`, in bytes (R8, D6; log 15). -/
@[simp] abbrev ibufSize : Nat := 65536

/-- `OBUF_SIZE` = `IBUF_SIZE` + 20, in bytes (R8, D6; log 15). -/
@[simp] abbrev obufSize : Nat := 65556

/-- `RBUF_SIZE`, in bytes (R8, D6; log 15). -/
@[simp] abbrev rbufSize : Nat := 65536

/-- `UDP_MAX_PAYLOAD`, in bytes (R8, R171). -/
@[simp] abbrev udpMaxPayload : Nat := 65527

/-- `TUN_FLAG_TUN` (R8, D25, G4; log 15). -/
abbrev tunFlagTun : Half := 0x0001#16

/-- `TUN_FLAG_NO_PI` (R8, D25, G4; log 15). -/
abbrev tunFlagNoPi : Half := 0x1000#16

/-- `CFG_PAD_LEN`, in bytes (R8, D25, G5; log 15). -/
@[simp] abbrev cfgPadLen : Nat := 22

/-- `IP_ID`, the IPv4 identification of this instance: an OPEN parameter of the spec (R8, R146, D15, U9; log 8). -/
opaque ipId : Half

/-- The byte that an address of a buffer holds after the reset number `resets` until something writes it (R71, R251,
U1, U2, U4: any value, per byte; log 6). The second argument is the bus address. -/
opaque unwrittenByte (resets address : Nat) : Byte

/-- What a host read of `OBUF` or `RBUF` returns while `STATUS.BUSY` = 1 (R66, U3: any value; log 7). `draw` counts
such reads. -/
opaque busyRead (draw : Nat) : Word

end Sys2Proof.Config
end

