-- ==== Sys2Proof/Machine/State.lean ====
section
/-! DEFINITION. The state of the block as plain data (R20), the reasons a step can stop, and the state after reset. -/

namespace Sys2Proof.Machine

/-! ### Status, registers, handle, phase -/

/-- The error codes of `STATUS.ERR` (R221); 6-15 are never produced. -/
inductive ErrCode
  | none | eaddr | esize | edev | elen | eill
  deriving DecidableEq, Repr

/-- The sub-causes of `STATUS.DEVSUB` (R222); 6-15 are never produced. -/
inductive DevSub
  | none | openFailed | configFailed | readFailed | writeFailed | notOpen
  deriving DecidableEq, Repr

/-- The stored fields of `STATUS` (R26, R48). `BUSY` and `DEVOPEN` are what `phase` and `handle` say (log 9). -/
structure Status where
  done   : Bool
  wign   : Bool
  err    : ErrCode
  devsub : DevSub
  deriving DecidableEq, Repr

/-- The register file (R23), less `STATUS`. -/
structure Regs where
  cmd      : Word
  len      : Word
  olen     : Word
  result   : Word
  acc      : Word
  srcAddr  : Word
  dstAddr  : Word
  ports    : Word
  seq      : Word
  ackn     : Word
  tcpctl   : Word
  winurg   : Word
  ipcfg    : Word
  plen     : Word
  rmax     : Word
  rlen     : Word
  devname0 : Word
  devname1 : Word
  devname2 : Word
  devname3 : Word
  deriving DecidableEq, Repr

/-- The names of the registers of R23, in the order of their offsets. -/
inductive Reg
  | cmd | status | len | olen | result | acc | srcAddr | dstAddr | ports | seq | ackn | tcpctl | winurg | ipcfg | plen
  | rmax | rlen | devname0 | devname1 | devname2 | devname3
  deriving DecidableEq, Repr

/-- The three buffers (R60). -/
inductive Buf
  | ibuf | obuf | rbuf
  deriving DecidableEq, Repr

/-- `HANDLE` (R40): CLOSED, or OPEN with the 16-byte device name. -/
inductive Handle
  | closed
  | opened (name : List Byte)
  deriving DecidableEq, Repr

/-- The requests on the environment port (R180). -/
inductive EnvReq
  | openDev (name : List Byte)
  | config (name : List Byte) (tun noPi : Bool)
  | tx (d : List Byte)
  | rx
  | close
  deriving DecidableEq, Repr

/-- The answers of the environment (R180). -/
inductive Answer
  | ok
  | fail
  | data (d : List Byte)
  deriving DecidableEq, Repr

/-- `PHASE` (R45). `busy` holds the accepted word, legal or not; a command that waits is already decoded, and
`waitEnv` holds it as a command (log 16). DEV_OPEN can wait for `Close` at two places of its rule (R185); `refused` is true
at the second, after a refused `Config`, and at no other wait (log 16). -/
inductive Phase
  | idle
  | busy (cmd : Word)
  | waitEnv (cmd : Instr) (req : EnvReq) (refused : Bool)
  deriving DecidableEq, Repr

/-! ### The host bus, and what the outside does next -/

/-- The widths a bus access can have; the block accepts 8 and 32 bits only (R63). -/
inductive Width
  | w8 | w16 | w32 | w64
  deriving DecidableEq, Repr

/-- A host bus access (R63) at one of the 2^20 bus addresses (R61). A write of 8 bits uses `v[7:0]`. -/
inductive Access
  | read (w : Width) (addr : BitVec 20)
  | write (w : Width) (addr : BitVec 20) (v : Word)
  deriving DecidableEq, Repr

/-- What stands at a bus address (R62). -/
inductive Target
  | reg (r : Reg)
  | buf (b : Buf) (offset : Nat)
  deriving DecidableEq, Repr

/-- What the bus answers to an access that is not SLVERR: OKAY to a write, the read data to a read (R66, R67; log 10).
`none` before the first access. -/
inductive Response
  | none
  | okay
  | data (v : Word)
  deriving DecidableEq, Repr

/-- What happens next (R7, R228; log 1): a bus access of the host, an answer of the environment, the reset input, or a
turn of the engine. -/
inductive Event
  | access (a : Access)
  | answer (a : Answer)
  | engine
  | reset
  deriving DecidableEq, Repr

/-- The written bytes of the buffers, by bus address, strictly rising. An address that is not listed has no written
byte (R71; log 6). -/
abbrev Memory := List Host.Cell

/-- What an encoding command produces (R143-R145, R160-R162, R173, R200): the bytes for `OBUF`, the sum for `ACC`, the word for
`RESULT`. -/
structure Artifact where
  bytes  : List Byte
  sum    : Nat
  result : Word
  deriving DecidableEq, Repr

/-- The state: the spec's own (R20) in `regs`, `status`, `handle`, `phase`, `mem`; then the instance's `IP_ID` (log 8),
and the model's own fields: what happens next, what was sent to the environment, the last bus response, and the two
counters that index free values (log 1, 6, 7, 10, 11). -/
structure State where
  regs   : Regs
  status : Status
  handle : Handle
  phase  : Phase
  mem    : Memory
  ipId   : Half
  inputs : List Event
  sent   : List EnvReq
  resp   : Response
  resets : Nat
  draws  : Nat
  deriving DecidableEq, Repr

/-! ### Reasons to stop -/

/-- The faults. -/
inductive Fault
  /-- Raised by a host access that answers SLVERR (R65, U6: a fault of the host program; log 5). Safe: the block would
  go on unchanged. -/
  | slverr
  /-- Raised by an environment answer while no request is outstanding (R181, U25 exclude it; log 4). Safe: the machine
  stops. -/
  | unsolicitedAnswer
  /-- Raised by an answer that R180's table does not allow for the outstanding request (log 4). Safe: the machine
  stops. -/
  | answerNotAllowed
  deriving DecidableEq, Repr

/-- The refusals. -/
inductive Refusal
  /-- Raised by `exec` for a command without a meaning; every command has one. Safe. -/
  | notModelled (mnemonic : String)
  deriving DecidableEq, Repr

/-- The outcome of a step or of a command's meaning. -/
abbrev Result := Host.Outcome State Fault Refusal

/-! ### Reset -/

/-- The reset values of the registers (R23, R250). -/
def Regs.reset : Regs where
  cmd := 0#32
  len := 0#32
  olen := 0#32
  result := 0#32
  acc := 0#32
  srcAddr := 0#32
  dstAddr := 0#32
  ports := 0#32
  seq := 0#32
  ackn := 0#32
  tcpctl := 0x00000005#32
  winurg := 0#32
  ipcfg := 0x00004000#32
  plen := 0#32
  rmax := 0x00010000#32
  rlen := 0#32
  devname0 := 0#32
  devname1 := 0#32
  devname2 := 0#32
  devname3 := 0#32

/-- The reset value of `STATUS` (R23, R250). -/
def Status.reset : Status := { done := false, wign := false, err := .none, devsub := .none }

/-- The block right after reset (R250, R251, R253): every register at its reset value, IDLE, CLOSED, no buffer byte
written; nothing waits outside, nothing was sent (log 2, 6, 7, 8, 10, 11). -/
def State.reset : State where
  regs := Regs.reset
  status := Status.reset
  handle := .closed
  phase := .idle
  mem := []
  ipId := Config.ipId
  inputs := []
  sent := []
  resp := .none
  resets := 0
  draws := 0

end Sys2Proof.Machine
end

