-- ==== Sys2Proof/Machine/Operands.lean ====
section
/-! DEFINITION. The operands of the commands (R99, R100): byte orders (R10, R64, R69), the register map (R23), and the
fields of the registers (R33-R43). -/

namespace Sys2Proof.Machine

/-! ### Byte orders -/

/-- `be16` (R10). -/
def be16 (v : Half) : List Byte := [v.extractLsb' 8 8, v.extractLsb' 0 8]

/-- `be32` (R10). -/
def be32 (v : Word) : List Byte :=
  [v.extractLsb' 24 8, v.extractLsb' 16 8, v.extractLsb' 8 8, v.extractLsb' 0 8]

/-- A computed value reduced mod 2^16 before it is placed in a 16-bit field (R100). -/
def mod16 (n : Nat) : Half := BitVec.ofNat 16 n

/-- The four byte lanes of a 32-bit bus word: bits 7:0 first (R64). -/
def lanes (v : Word) : List Byte :=
  [v.extractLsb' 0 8, v.extractLsb' 8 8, v.extractLsb' 16 8, v.extractLsb' 24 8]

/-- The bus word whose byte lanes are these four bytes (R64). -/
def ofLanes (b0 b1 b2 b3 : Byte) : Word := b3 ++ b2 ++ b1 ++ b0

/-- `b[i:j]` of a byte sequence (R10). -/
def slice (b : List Byte) (i j : Nat) : List Byte := (b.take j).drop i

/-- `zext_32` of a 16-bit value (R11). -/
def zext32 (v : Half) : Word := v.setWidth 32

/-! ### The register map -/

/-- The register at a byte offset of the register file (R23); the other offsets are reserved. -/
def Reg.ofOffset : Nat → Option Reg
  | 0x00 => some .cmd
  | 0x04 => some .status
  | 0x08 => some .len
  | 0x0C => some .olen
  | 0x10 => some .result
  | 0x14 => some .acc
  | 0x18 => some .srcAddr
  | 0x1C => some .dstAddr
  | 0x20 => some .ports
  | 0x24 => some .seq
  | 0x28 => some .ackn
  | 0x2C => some .tcpctl
  | 0x30 => some .winurg
  | 0x34 => some .ipcfg
  | 0x38 => some .plen
  | 0x3C => some .rmax
  | 0x40 => some .rlen
  | 0x50 => some .devname0
  | 0x54 => some .devname1
  | 0x58 => some .devname2
  | 0x5C => some .devname3
  | _ => none

/-- The registers that a host write answers SLVERR to (R23, R65). -/
def Reg.readOnly : Reg → Bool
  | .olen | .result | .acc | .rlen => true
  | .cmd | .status | .len | .srcAddr | .dstAddr | .ports | .seq | .ackn => false
  | .tcpctl | .winurg | .ipcfg | .plen | .rmax => false
  | .devname0 | .devname1 | .devname2 | .devname3 => false

/-- The bits of a register that a field of R23 names; a write to the others is ignored (R24). `CMD` stores all its
bits (R25). -/
def Reg.mask : Reg → Word
  | .tcpctl => 0x00003F0F#32
  | .ipcfg => 0x0000FFFF#32
  | .plen => 0x0000FFFF#32
  | .cmd | .status | .len | .olen | .result | .acc | .srcAddr | .dstAddr | .ports | .seq | .ackn => 0xFFFFFFFF#32
  | .winurg | .rmax | .rlen | .devname0 | .devname1 | .devname2 | .devname3 => 0xFFFFFFFF#32

/-- A host write of `v` to an RW register: reserved bits are dropped (R24). `STATUS` and the RO registers are not
written here (R27, R65). -/
def Regs.hostWrite (g : Regs) (r : Reg) (v : Word) : Regs :=
  let u := v &&& r.mask
  match r with
  | .cmd => { g with cmd := u }
  | .len => { g with len := u }
  | .srcAddr => { g with srcAddr := u }
  | .dstAddr => { g with dstAddr := u }
  | .ports => { g with ports := u }
  | .seq => { g with seq := u }
  | .ackn => { g with ackn := u }
  | .tcpctl => { g with tcpctl := u }
  | .winurg => { g with winurg := u }
  | .ipcfg => { g with ipcfg := u }
  | .plen => { g with plen := u }
  | .rmax => { g with rmax := u }
  | .devname0 => { g with devname0 := u }
  | .devname1 => { g with devname1 := u }
  | .devname2 => { g with devname2 := u }
  | .devname3 => { g with devname3 := u }
  | .status | .olen | .result | .acc | .rlen => g

/-! ### The fields of the registers -/

/-- `PORTS.SPORT` (R33). -/
def Regs.sport (g : Regs) : Half := g.ports.extractLsb' 16 16

/-- `PORTS.DPORT` (R33). -/
def Regs.dport (g : Regs) : Half := g.ports.extractLsb' 0 16

/-- `TCPCTL.DOFF` (R36). -/
def Regs.doff (g : Regs) : BitVec 4 := g.tcpctl.extractLsb' 0 4

/-- `TCPCTL.TFLAGS` (R36): URG, ACK, PSH, RST, SYN, FIN from bit 5 down. -/
def Regs.tflags (g : Regs) : BitVec 6 := g.tcpctl.extractLsb' 8 6

/-- `WINURG.WINDOW` (R37). -/
def Regs.window (g : Regs) : Half := g.winurg.extractLsb' 16 16

/-- `WINURG.URGPTR` (R37). -/
def Regs.urgptr (g : Regs) : Half := g.winurg.extractLsb' 0 16

/-- `IPCFG.TTL` (R38). -/
def Regs.ttl (g : Regs) : Byte := g.ipcfg.extractLsb' 8 8

/-- `IPCFG.PROTO` (R38). -/
def Regs.proto (g : Regs) : Byte := g.ipcfg.extractLsb' 0 8

/-- `PLEN`, its one field (R39). -/
def Regs.payloadLen (g : Regs) : Nat := (g.plen.extractLsb' 0 16).toNat

/-- The 16 bytes of the device name: byte `4k + j` is `DEVNAME<k>[8j+7 : 8j]` (R43). -/
def Regs.deviceName (g : Regs) : List Byte :=
  lanes g.devname0 ++ lanes g.devname1 ++ lanes g.devname2 ++ lanes g.devname3

end Sys2Proof.Machine
end

