-- ==== Sys2Proof/Machine/Flags.lean ====
section
/-! DEFINITION. `STATUS`: its codes (R221, R222), its word (R26), and every way its bits change (R27, R48, R67, R93, R96). -/

namespace Sys2Proof.Machine

/-- The code of an error in `STATUS.ERR` (R221). -/
def ErrCode.code : ErrCode → BitVec 4
  | .none => 0#4
  | .eaddr => 1#4
  | .esize => 2#4
  | .edev => 3#4
  | .elen => 4#4
  | .eill => 5#4

/-- The code of a sub-cause in `STATUS.DEVSUB` (R222). -/
def DevSub.code : DevSub → BitVec 4
  | .none => 0#4
  | .openFailed => 1#4
  | .configFailed => 2#4
  | .readFailed => 3#4
  | .writeFailed => 4#4
  | .notOpen => 5#4

/-- `STATUS.BUSY` = 1 exactly when `PHASE` ≠ IDLE (R45). -/
def Phase.isBusy : Phase → Bool
  | .idle => false
  | .busy _ => true
  | .waitEnv _ _ _ => true

/-- `STATUS.DEVOPEN` = 1 exactly when `HANDLE` is OPEN (R26). -/
def Handle.isOpen : Handle → Bool
  | .closed => false
  | .opened _ => true

/-- The word a read of `STATUS` returns (R26): DEVSUB, ERR, DEVOPEN, WIGN, DONE, BUSY; bits 31:12 read 0. -/
def State.statusWord (s : State) : Word :=
  0#20 ++ s.status.devsub.code ++ s.status.err.code ++ BitVec.ofBool s.handle.isOpen ++ BitVec.ofBool s.status.wign
    ++ BitVec.ofBool s.status.done ++ BitVec.ofBool s.phase.isBusy

/-- A host write of `v` to `STATUS` (R27): a 1 in bit 1 clears DONE, a 1 in bit 2 clears WIGN. -/
def Status.hostWrite (f : Status) (v : Word) : Status :=
  { f with done := f.done && !v.getLsbD 1, wign := f.wign && !v.getLsbD 2 }

/-- A dropped host write sets WIGN (R67). -/
def Status.dropped (f : Status) : Status := { f with wign := true }

/-- Acceptance (R93): DONE, ERR and DEVSUB are cleared. -/
def Status.accepted (f : Status) : Status := { f with done := false, err := .none, devsub := .none }

/-- Commit (R96): ERR, DEVSUB and DONE are written. -/
def Status.committed (f : Status) (e : ErrCode) (d : DevSub) : Status := { f with done := true, err := e, devsub := d }

/-- The value a read of a register returns (R66). -/
def State.readReg (s : State) : Reg → Word
  | .cmd => s.regs.cmd
  | .status => s.statusWord
  | .len => s.regs.len
  | .olen => s.regs.olen
  | .result => s.regs.result
  | .acc => s.regs.acc
  | .srcAddr => s.regs.srcAddr
  | .dstAddr => s.regs.dstAddr
  | .ports => s.regs.ports
  | .seq => s.regs.seq
  | .ackn => s.regs.ackn
  | .tcpctl => s.regs.tcpctl
  | .winurg => s.regs.winurg
  | .ipcfg => s.regs.ipcfg
  | .plen => s.regs.plen
  | .rmax => s.regs.rmax
  | .rlen => s.regs.rlen
  | .devname0 => s.regs.devname0
  | .devname1 => s.regs.devname1
  | .devname2 => s.regs.devname2
  | .devname3 => s.regs.devname3

end Sys2Proof.Machine
end

