-- ==== Sys2Proof/Machine/Ops.lean ====
section
/-! DEFINITION. The shared operations: the buffers (R12, R60-R70), acceptance (R93), commit (R96), `raise` (R224), and
requests to the environment (R180). -/

namespace Sys2Proof.Machine

/-! ### Memory -/

/-- The canonical form: addresses strictly rising. An unlisted address has no written byte, so no listed byte can
equal what an unlisted address holds (log 6). -/
abbrev Memory.wf (m : Memory) : Prop := m.Pairwise (fun c d => c.1 < d.1)

/-- The byte written at a bus address, if one was since reset (R71). -/
def Memory.read : Memory → Nat → Option Byte
  | [], _ => none
  | (k, b) :: m, a => if k = a then some b else Memory.read m a

/-- Consecutive cells from address `a` on. -/
def Memory.cells : Nat → List Byte → Memory
  | _, [] => []
  | a, b :: bs => (a, b) :: Memory.cells (a + 1) bs

/-- Write the bytes `bs` at `a`, `a + 1`, … together; every other address keeps what it has (R12, R70). -/
def Memory.write (m : Memory) (a : Nat) (bs : List Byte) : Memory :=
  m.filter (fun c => c.1 < a) ++ Memory.cells a bs ++ m.filter (fun c => a + bs.length ≤ c.1)

/-- The bus address of the first byte of a buffer (R62). -/
def Buf.base : Buf → Nat
  | .ibuf => 0x10000
  | .obuf => 0x20000
  | .rbuf => 0x40000

/-- The size of a buffer (R60). -/
def Buf.size : Buf → Nat
  | .ibuf => Config.ibufSize
  | .obuf => Config.obufSize
  | .rbuf => Config.rbufSize

/-- The byte that the buffers hold at a bus address: the written one, else the unspecified one it holds since the last
reset (R71, log 6). -/
def State.byte (s : State) (a : Nat) : Byte := (Memory.read s.mem a).getD (Config.unwrittenByte s.resets a)

/-- `MemRead(S, a, n)` (R12). -/
def State.memRead (s : State) (b : Buf) (a n : Nat) : List Byte :=
  (List.range n).map (fun k => s.byte (b.base + a + k))

/-- `MemWrite(S, a, n, v)` with `n` = `|v|` (R12). -/
def State.memWrite (s : State) (b : Buf) (a : Nat) (v : List Byte) : State :=
  { s with mem := Memory.write s.mem (b.base + a) v }

/-! ### The life of a command -/

/-- Acceptance of the command word `v` (R93). -/
def State.accept (s : State) (v : Word) : State :=
  { s with regs := { s.regs with cmd := v }, status := s.status.accepted, phase := .busy v }

/-- Commit with an error code and a sub-cause (R96). -/
def State.commit (s : State) (e : ErrCode) (d : DevSub) : State :=
  { s with status := s.status.committed e d, phase := .idle }

/-- `raise E(sub)` (R224, R220): straight to the commit. What the rule wrote before stands in `s`. This is all there is of
taking an exception: no trap, no saved context, no return (R229, R230). -/
def raise (e : ErrCode) (d : DevSub) (s : State) : Result := .next (s.commit e d)

/-- A command ends without an error (R96). -/
def finish (s : State) : Result := .next (s.commit .none .none)

/-- `n <- x[LEN]; if n > IBUF_SIZE then raise ELEN(); MemRead(IBUF, 0, n)`, and on with the bytes (R28). -/
def withInput (s : State) (k : List Byte → Result) : Result :=
  if Config.ibufSize < s.regs.len.toNat then raise .elen .none s
  else k (s.memRead .ibuf 0 s.regs.len.toNat)

/-- `x[ACC] <- sum; x[RESULT] <- result`. The sums of R123 fit in 32 bits. -/
def State.setChecksum (s : State) (sum : Nat) (result : Word) : State :=
  { s with regs := { s.regs with acc := BitVec.ofNat 32 sum, result := result } }

/-- An encoding command's results: `OBUF`, `OLEN`, `ACC`, `RESULT` (R47, R70). -/
def State.emit (s : State) (a : Artifact) : State :=
  let t := s.memWrite .obuf 0 a.bytes
  { t with regs := { t.regs with olen := BitVec.ofNat 32 a.bytes.length, acc := BitVec.ofNat 32 a.sum, result := a.result } }

/-! ### The environment port -/

/-- The answers that R180's table allows for a request. -/
def EnvReq.allows : EnvReq → Answer → Bool
  | .openDev _, .ok => true
  | .openDev _, .fail => true
  | .openDev _, .data _ => false
  | .config _ _ _, .ok => true
  | .config _ _ _, .fail => true
  | .config _ _ _, .data _ => false
  | .tx _, .ok => true
  | .tx _, .fail => true
  | .tx _, .data _ => false
  | .rx, .data _ => true
  | .rx, .fail => true
  | .rx, .ok => false
  | .close, .ok => true
  | .close, .fail => false
  | .close, .data _ => false

/-- Go on with an answer, if it is one the request allows (R180, R181; log 4). -/
def takeAnswer (req : EnvReq) (a : Answer) (k : Answer → State → Result) (s : State) : Result :=
  if req.allows a then k a s else .fault .answerNotAllowed

/-- The request goes out, and the command waits (R180, R95); `refused` as in `Phase.waitEnv`. -/
def State.send (s : State) (i : Instr) (req : EnvReq) (refused : Bool := false) : State :=
  { s with phase := .waitEnv i req refused, sent := s.sent ++ [req] }

/-- `EnvRequest(req)` (R180). Where the answer is what happens next outside, nothing can come between, and the command
goes on with it; otherwise it waits, and the answer finds it in WAIT_ENV (log 3). -/
def envRequest (i : Instr) (req : EnvReq) (k : Answer → State → Result) (s : State) (refused : Bool := false) : Result :=
  match s.inputs with
  | .answer a :: rest => takeAnswer req a k { s.send i req refused with inputs := rest }
  | _ => .next (s.send i req refused)

end Sys2Proof.Machine
end

