-- ==== Sys2Proof/Machine/Bus.lean ====
section
/-! DEFINITION. The host bus (20_memory.md, section 2): what an access reaches, which answer SLVERR, and what the others
do. -/

namespace Sys2Proof.Machine

/-- What stands at a bus address (R62, R23); `none` where nothing does. A register is found at its own offset only, so an
address between two registers reaches nothing. -/
def targetOf (addr : BitVec 20) : Option Target :=
  let a := addr.toNat
  if a < 0x100 then (Reg.ofOffset a).map .reg
  else if 0x10000 ≤ a ∧ a < 0x10000 + Config.ibufSize then some (.buf .ibuf (a - 0x10000))
  else if 0x20000 ≤ a ∧ a < 0x20000 + Config.obufSize then some (.buf .obuf (a - 0x20000))
  else if 0x40000 ≤ a ∧ a < 0x40000 + Config.rbufSize then some (.buf .rbuf (a - 0x40000))
  else none

/-- The widths a region accepts for a read (R63). -/
def Target.acceptsRead : Target → Width → Bool
  | .reg _, .w32 => true
  | .reg _, .w8 => false
  | .buf _ _, .w8 => true
  | .buf _ _, .w32 => true
  | .reg _, .w16 => false
  | .reg _, .w64 => false
  | .buf _ _, .w16 => false
  | .buf _ _, .w64 => false

/-- The widths a region accepts for a write; none for an RO register, `OBUF` and `RBUF` (R63). -/
def Target.acceptsWrite : Target → Width → Bool
  | .reg r, w => !r.readOnly && w == .w32
  | .buf .ibuf _, w => w == .w8 || w == .w32
  | .buf .obuf _, _ => false
  | .buf .rbuf _, _ => false

/-- A 32-bit access is at an address ≡ 0 mod 4 (R63, R65). -/
def alignedFor (w : Width) (addr : BitVec 20) : Bool := w != .w32 || addr.toNat % 4 == 0

/-- The access answers SLVERR (R65). -/
def Access.slverr : Access → Bool
  | .read w addr =>
    match targetOf addr with
    | none => true
    | some t => !(t.acceptsRead w && alignedFor w addr)
  | .write w addr _ =>
    match targetOf addr with
    | none => true
    | some t => !(t.acceptsWrite w && alignedFor w addr)

/-- The stored bytes at a buffer offset as read data (R64); 8 bits are read data with zeros above them (log 10). -/
def State.loadBuf (s : State) (b : Buf) (off : Nat) : Width → Word
  | .w8 => (s.byte (b.base + off)).setWidth 32
  | .w16 | .w32 | .w64 =>
    ofLanes (s.byte (b.base + off)) (s.byte (b.base + off + 1)) (s.byte (b.base + off + 2)) (s.byte (b.base + off + 3))

/-- Read data of any value, as wide as the access (R66, U3; log 7). -/
def anyValue (draw : Nat) : Width → Word
  | .w8 => ((Config.busyRead draw).setWidth 8).setWidth 32
  | .w16 | .w32 | .w64 => Config.busyRead draw

/-- A read that does not answer SLVERR (R66). -/
def State.busRead (s : State) (w : Width) : Target → State
  | .reg r => { s with resp := .data (s.readReg r) }
  | .buf .ibuf off => { s with resp := .data (s.loadBuf .ibuf off w) }
  | .buf .obuf off =>
    if s.phase.isBusy then { s with resp := .data (anyValue s.draws w), draws := s.draws + 1 }
    else { s with resp := .data (s.loadBuf .obuf off w) }
  | .buf .rbuf off =>
    if s.phase.isBusy then { s with resp := .data (anyValue s.draws w), draws := s.draws + 1 }
    else { s with resp := .data (s.loadBuf .rbuf off w) }

/-- The bytes that a write of this width puts into `IBUF` (R64). -/
def writtenBytes (w : Width) (v : Word) : List Byte :=
  match w with
  | .w8 => [v.extractLsb' 0 8]
  | .w16 | .w32 | .w64 => lanes v

/-- What a write does to the block (R27, R67, R93, R24, R64). -/
def State.storeTo (s : State) (w : Width) (v : Word) : Target → State
  | .reg .status => { s with status := s.status.hostWrite v }
  | .reg .cmd => if s.phase.isBusy then { s with status := s.status.dropped } else s.accept v
  | .reg r => if s.phase.isBusy then { s with status := s.status.dropped } else { s with regs := s.regs.hostWrite r v }
  | .buf b off =>
    if s.phase.isBusy then { s with status := s.status.dropped } else s.memWrite b off (writtenBytes w v)

/-- A write that does not answer SLVERR answers OKAY, also when it is dropped (R67). -/
def State.busWrite (s : State) (w : Width) (v : Word) (t : Target) : State := { s.storeTo w v t with resp := .okay }

/-- One access of the host (R63-R68), as one atomic step (R228). -/
def hostTurn (a : Access) (s : State) : Result :=
  if a.slverr then .fault .slverr
  else match a with
    | .read w addr =>
      match targetOf addr with
      | some t => .next (s.busRead w t)
      | none => .fault .slverr
    | .write w addr v =>
      match targetOf addr with
      | some t => .next (s.busWrite w v t)
      | none => .fault .slverr

end Sys2Proof.Machine
end

