-- ==== Sys2Proof/Machine/Address.lean ====
section
/-! DEFINITION. IPv4 address text (R106, R142): PARSE_SRC and PARSE_DST. -/

namespace Sys2Proof.Machine

/-- Split a byte string at every byte 0x2E (R142). -/
def splitDots : List Byte → List (List Byte)
  | [] => [[]]
  | b :: t =>
    if b = 0x2E#8 then [] :: splitDots t
    else match splitDots t with
      | [] => [[b]]
      | p :: ps => (b :: p) :: ps

/-- A digit is a byte 0x30-0x39 (R106). -/
def isDigit (b : Byte) : Bool := decide (0x30 ≤ b.toNat ∧ b.toNat ≤ 0x39)

/-- The decimal value of a string of digits (R142). -/
def decimal (p : List Byte) : Nat := p.foldl (fun n b => 10 * n + (b.toNat - 0x30)) 0

/-- One component, or invalid: the five lines of R142's loop, in order. -/
def component (p : List Byte) : Option Byte :=
  if p.length = 0 ∨ 3 < p.length then none
  else if p.any (fun b => !isDigit b) then none
  else if 1 < p.length ∧ p.head? = some 0x30#8 then none
  else if 255 < decimal p then none
  else some (BitVec.ofNat 8 (decimal p))

/-- `c0 << 24 | c1 << 16 | c2 << 8 | c3` (R106). -/
def ofComponents (c0 c1 c2 c3 : Byte) : Word := c0 ++ c1 ++ c2 ++ c3

/-- `ParseAddr(t)` (R142): the address, or `none` for invalid text. -/
def parseAddr (t : List Byte) : Option Word :=
  match splitDots t with
  | [p0, p1, p2, p3] =>
    match component p0, component p1, component p2, component p3 with
    | some c0, some c1, some c2, some c3 => some (ofComponents c0 c1 c2 c3)
    | _, _, _, _ => none
  | _ => none

/-- PARSE_SRC (R140). -/
def execParseSrc (s : State) : Result :=
  withInput s fun t =>
    match parseAddr t with
    | none => raise .eaddr .none s
    | some a => finish { s with regs := { s.regs with srcAddr := a } }

/-- PARSE_DST (R141). -/
def execParseDst (s : State) : Result :=
  withInput s fun t =>
    match parseAddr t with
    | none => raise .eaddr .none s
    | some a => finish { s with regs := { s.regs with dstAddr := a } }

end Sys2Proof.Machine
end

