-- ==== Sys2Proof/Machine/Checksum.lean ====
section
/-! DEFINITION. The ChecksumEngine (40_checksum.md): its functions, CSUM and CSUM_UDP. -/

namespace Sys2Proof.Machine

/-- `Words(m)` (R120): big-endian 16-bit words; an odd last byte is padded with a zero byte. -/
def words : List Byte → List Half
  | [] => []
  | [b] => [b ++ 0#8]
  | a :: b :: m => (a ++ b) :: words m

/-- `Sum16(m)` (R121): the exact sum of the words. -/
def sum16 (m : List Byte) : Nat := ((words m).map BitVec.toNat).sum

/-- The loop of `Fold` (R122). Every turn makes `s` smaller, so `s` turns are enough. -/
def foldLoop : Nat → Nat → Nat
  | 0, s => s
  | fuel + 1, s => if 0xFFFF < s then foldLoop fuel ((s >>> 16) + (s &&& 0xFFFF)) else s

/-- `Fold(s)` (R122). -/
def fold (s : Nat) : Nat := foldLoop s s

/-- `Checksum(m)` (R124). -/
def checksum (m : List Byte) : Half := ~~~(BitVec.ofNat 16 (fold (sum16 m)))

/-- `UdpSubst(c)` (R125). -/
def udpSubst (c : Half) : Half := if c = 0#16 then 0xFFFF#16 else c

/-- CSUM (R126). -/
def execCsum (s : State) : Result :=
  withInput s fun m => finish (s.setChecksum (sum16 m) (zext32 (checksum m)))

/-- CSUM_UDP (R127). -/
def execCsumUdp (s : State) : Result :=
  withInput s fun m => finish (s.setChecksum (sum16 m) (zext32 (udpSubst (checksum m))))

end Sys2Proof.Machine
end

