-- ==== Sys2Proof/Machine/Control.lean ====
section
/-! DEFINITION. The control command (46_control.md): NOP. -/

namespace Sys2Proof.Machine

/-- NOP (R210): straight to the commit with ERR = 0. -/
def execNop (s : State) : Result := finish s

end Sys2Proof.Machine
end

