-- ==== Sys2Proof/Machine/Device.lean ====
section
/-! DEFINITION. The RawInterfaceTransport (44_device.md): DEV_OPEN, DEV_READ, DEV_WRITE, DEV_CLOSE, each in the pieces
that R95 cuts it into: up to a request, and on from its answer. -/

namespace Sys2Proof.Machine

/-- The bytes of the configuration record (R105): the name, the flags least significant byte first, zero padding. The
port carries the structured request (R182); this is its rendering. -/
def configRecord (name : List Byte) : List Byte :=
  let flags := Config.tunFlagTun ||| Config.tunFlagNoPi
  name ++ [flags.extractLsb' 0 8, flags.extractLsb' 8 8] ++ List.replicate Config.cfgPadLen 0#8

/-! ### DEV_OPEN (R185)

`HANDLE`, and `STATUS.DEVOPEN` with it, changes at the commit (R47, R72, R96; R48: DEVOPEN is cleared by a FAILED DEV_OPEN), so
the `HANDLE <- CLOSED` that R185 writes after the first `Close` is part of the commits below (log 20). -/

/-- After the `Close` that follows a refused `Config`. -/
def devOpenRefused (_ : Answer) (s : State) : Result := raise .edev .configFailed { s with handle := .closed }

/-- After the answer to `Config`. -/
def devOpenConfigured (name : List Byte) (a : Answer) (s : State) : Result :=
  if a = .fail then envRequest .devOpen .close devOpenRefused s (refused := true)
  else finish { s with handle := .opened name }

/-- After the answer to `Open`. -/
def devOpenOpened (name : List Byte) (a : Answer) (s : State) : Result :=
  if a = .fail then raise .edev .openFailed { s with handle := .closed }
  else envRequest .devOpen (.config name true true) (devOpenConfigured name) s

/-- `Open` is requested. -/
def devOpenRequest (s : State) : Result :=
  envRequest .devOpen (.openDev s.regs.deviceName) (devOpenOpened s.regs.deviceName) s

/-- After the `Close` of a handle that was OPEN. `Open` goes out in the step that takes the answer, so that nothing, not even a
reset, comes between: the model's choice (DESIGN CHOICE, log 12), as at every answer that DEV_OPEN goes on from. -/
def devOpenReleased (_ : Answer) (s : State) : Result := devOpenRequest s

/-- DEV_OPEN (R185). -/
def execDevOpen (s : State) : Result :=
  if s.handle.isOpen then envRequest .devOpen .close devOpenReleased s else devOpenRequest s

/-! ### DEV_READ (R186) -/

/-- After the answer to `Rx`: at most `RMAX` bytes are kept, the rest is lost. -/
def devReadAnswered (a : Answer) (s : State) : Result :=
  match a with
  | .data d =>
    let kept := d.take s.regs.rmax.toNat
    let t := s.memWrite .rbuf 0 kept
    finish { t with regs := { t.regs with rlen := BitVec.ofNat 32 kept.length } }
  | .ok | .fail => raise .edev .readFailed s

/-- DEV_READ (R186). -/
def execDevRead (s : State) : Result :=
  if Config.rbufSize < s.regs.rmax.toNat then raise .elen .none s
  else if s.handle.isOpen then envRequest .devRead .rx devReadAnswered s
  else raise .edev .notOpen s

/-! ### DEV_WRITE (R187) -/

/-- After the answer to `Tx`. -/
def devWriteAnswered (a : Answer) (s : State) : Result :=
  if a = .fail then raise .edev .writeFailed s else finish s

/-- Transmit the datagram `d`, if the handle is open (R187). -/
def transmit (arg0 : Bool) (d : List Byte) (s : State) : Result :=
  if s.handle.isOpen then envRequest (.devWrite arg0) (.tx d) devWriteAnswered s
  else raise .edev .notOpen s

/-- DEV_WRITE (R187). -/
def execDevWrite (arg0 : Bool) (s : State) : Result :=
  if arg0 then transmit arg0 (s.memRead .obuf 0 s.regs.olen.toNat) s
  else withInput s fun d => transmit arg0 d s

/-! ### DEV_CLOSE (R188) -/

/-- After the answer to `Close`. -/
def devCloseAnswered (_ : Answer) (s : State) : Result := finish { s with handle := .closed }

/-- DEV_CLOSE (R188). -/
def execDevClose (s : State) : Result :=
  if s.handle.isOpen then envRequest .devClose .close devCloseAnswered s else finish s

end Sys2Proof.Machine
end

