-- ==== Sys2Proof/Machine/IpHeader.lean ====
section
/-! DEFINITION. The IPv4 header (R101, R143, R144, R146), the pseudo-header (R104), and IP_ENC. -/

namespace Sys2Proof.Machine

/-- `IpHdr0(src, dst, proto, plen, ttl)` (R143): the header with a zero checksum. `id` is the instance's `IP_ID`. -/
def ipHdr0 (id : Half) (src dst : Word) (proto : Byte) (plen : Nat) (ttl : Byte) : List Byte :=
  [0x45#8] ++ [0x00#8] ++ be16 (mod16 (20 + plen)) ++ be16 id ++ [0x40#8, 0x00#8] ++ [ttl] ++ [proto]
    ++ [0x00#8, 0x00#8] ++ be32 src ++ be32 dst

/-- `IpHdr(src, dst, proto, plen, ttl)` (R144): the same header with its checksum in place. -/
def ipHdr (id : Half) (src dst : Word) (proto : Byte) (plen : Nat) (ttl : Byte) : List Byte :=
  let h0 := ipHdr0 id src dst proto plen ttl
  slice h0 0 10 ++ be16 (checksum h0) ++ slice h0 12 20

/-- `Pseudo(src, dst, proto, segLen)` (R104): checksum input only. -/
def pseudo (src dst : Word) (proto : Byte) (segLen : Nat) : List Byte :=
  be32 src ++ be32 dst ++ [0x00#8] ++ [proto] ++ be16 (mod16 segLen)

/-- What IP_ENC produces from the registers (R145). -/
def State.ipArtifact (s : State) : Artifact :=
  let h0 := ipHdr0 s.ipId s.regs.srcAddr s.regs.dstAddr s.regs.proto s.regs.payloadLen s.regs.ttl
  { bytes := ipHdr s.ipId s.regs.srcAddr s.regs.dstAddr s.regs.proto s.regs.payloadLen s.regs.ttl
    sum := sum16 h0
    result := zext32 (checksum h0) }

/-- IP_ENC (R145). -/
def execIpEnc (s : State) : Result := finish (s.emit s.ipArtifact)

end Sys2Proof.Machine
end

