-- ==== Sys2Proof/Machine/Udp.lean ====
section
/-! DEFINITION. The UDP header (R103, R170), the checksummed segment (R173), and UDP_ENC. -/

namespace Sys2Proof.Machine

/-- `UdpHdr0(sp, dp, n)` (R170). -/
def udpHdr0 (sp dp : Half) (n : Nat) : List Byte := be16 sp ++ be16 dp ++ be16 (mod16 (8 + n)) ++ [0x00#8, 0x00#8]

/-- The checksum input of a UDP segment (R173). -/
def udpInput (src dst : Word) (sp dp : Half) (p : List Byte) : List Byte :=
  pseudo src dst 17#8 (8 + p.length) ++ udpHdr0 sp dp p.length ++ p

/-- The checksum of a UDP segment, never 0x0000 (R173, R125). -/
def udpChecksum (src dst : Word) (sp dp : Half) (p : List Byte) : Half :=
  udpSubst (checksum (udpInput src dst sp dp p))

/-- `UdpSeg(src, dst, sp, dp, p)` (R173). -/
def udpSeg (src dst : Word) (sp dp : Half) (p : List Byte) : Artifact where
  bytes := slice (udpHdr0 sp dp p.length) 0 6 ++ be16 (udpChecksum src dst sp dp p) ++ p
  sum := sum16 (udpInput src dst sp dp p)
  result := zext32 (udpChecksum src dst sp dp p)

/-- The segment that UDP_ENC and SEND_UDP form from the registers and the payload `p` (R172, R200). -/
def Regs.udpArtifact (g : Regs) (p : List Byte) : Artifact := udpSeg g.srcAddr g.dstAddr g.sport g.dport p

/-- The input of UDP_ENC and SEND_UDP: ELEN above `IBUF_SIZE`, then ESIZE above `UDP_MAX_PAYLOAD` (R171, R172, R200). -/
def withUdpPayload (s : State) (k : List Byte → Result) : Result :=
  withInput s fun p =>
    if Config.udpMaxPayload < s.regs.len.toNat then raise .esize .none s else k p

/-- UDP_ENC (R172). -/
def execUdpEnc (s : State) : Result :=
  withUdpPayload s fun p => finish (s.emit (s.regs.udpArtifact p))

end Sys2Proof.Machine
end

