-- ==== Sys2Proof/Machine/Facade.lean ====
section
/-! DEFINITION. The client façade (45_facade.md): SEND_UDP. -/

namespace Sys2Proof.Machine

/-- The datagram of SEND_UDP, with the IPv4 header's sum for `ACC` and both checksums for `RESULT` (R200, R30). -/
def State.udpDatagram (s : State) (p : List Byte) : Artifact :=
  let g := s.regs
  let h0 := ipHdr0 s.ipId g.srcAddr g.dstAddr 17#8 (8 + p.length) g.ttl
  { bytes := ipHdr s.ipId g.srcAddr g.dstAddr 17#8 (8 + p.length) g.ttl ++ (g.udpArtifact p).bytes
    sum := sum16 h0
    result := checksum h0 ++ udpChecksum g.srcAddr g.dstAddr g.sport g.dport p }

/-- The payload of SEND_UDP; it cannot change while the command waits (R67). -/
def State.udpPayload (s : State) : List Byte := s.memRead .ibuf 0 s.regs.len.toNat

/-- After the answer to `Tx`: the datagram's results are written in both cases, at the commit (R200, R96; log 17). -/
def sendUdpAnswered (a : Answer) (s : State) : Result :=
  let t := s.emit (s.udpDatagram s.udpPayload)
  if a = .fail then raise .edev .writeFailed t else finish t

/-- SEND_UDP (R200). -/
def execSendUdp (s : State) : Result :=
  withUdpPayload s fun p =>
    if s.handle.isOpen then envRequest .sendUdp (.tx (s.udpDatagram p).bytes) sendUdpAnswered s
    else raise .edev .notOpen (s.emit (s.udpDatagram p))

end Sys2Proof.Machine
end

