-- ==== Sys2Proof/Machine/Tcp.lean ====
section
/-! DEFINITION. The TCP header (R102, R160, R161) and TCP_ENC. -/

namespace Sys2Proof.Machine

/-- `TcpHdr0` (R160): the 20-byte header with a zero checksum. Bytes 12-13 are `(doff << 12) | fl`, bits 11:6 zero
(R102, R161). -/
def tcpHdr0 (sp dp : Half) (seq ack : Word) (doff : BitVec 4) (fl : BitVec 6) (win urg : Half) : List Byte :=
  be16 sp ++ be16 dp ++ be32 seq ++ be32 ack ++ be16 (doff ++ 0#6 ++ fl) ++ be16 win ++ [0x00#8, 0x00#8] ++ be16 urg

/-- The header that TCP_ENC forms from the registers (R162). -/
def Regs.tcpHdr0 (g : Regs) : List Byte :=
  Machine.tcpHdr0 g.sport g.dport g.seq g.ackn g.doff g.tflags g.window g.urgptr

/-- What TCP_ENC produces from the registers and the payload `p` (R162). -/
def Regs.tcpArtifact (g : Regs) (p : List Byte) : Artifact :=
  let h0 := g.tcpHdr0
  let m := pseudo g.srcAddr g.dstAddr 6#8 (20 + p.length) ++ h0 ++ p
  { bytes := slice h0 0 16 ++ be16 (checksum m) ++ slice h0 18 20 ++ p
    sum := sum16 m
    result := zext32 (checksum m) }

/-- TCP_ENC (R162). -/
def execTcpEnc (s : State) : Result :=
  withInput s fun p => finish (s.emit (s.regs.tcpArtifact p))

end Sys2Proof.Machine
end

