-- ==== Sys2Proof/Machine/Dispatch.lean ====
section
/-! DEFINITION. The meaning of every command, one arm per row of the opcode map (R91, R94). -/

namespace Sys2Proof.Machine

def exec (i : Instr) (s : State) : Host.Outcome State Fault Refusal :=
  match i with
  | .nop => Sys2Proof.Machine.execNop s
  | .csum => Sys2Proof.Machine.execCsum s
  | .csumUdp => Sys2Proof.Machine.execCsumUdp s
  | .parseSrc => Sys2Proof.Machine.execParseSrc s
  | .parseDst => Sys2Proof.Machine.execParseDst s
  | .ipEnc => Sys2Proof.Machine.execIpEnc s
  | .tcpEnc => Sys2Proof.Machine.execTcpEnc s
  | .udpEnc => Sys2Proof.Machine.execUdpEnc s
  | .sendUdp => Sys2Proof.Machine.execSendUdp s
  | .devOpen => Sys2Proof.Machine.execDevOpen s
  | .devRead => Sys2Proof.Machine.execDevRead s
  | .devWrite arg0 => Sys2Proof.Machine.execDevWrite arg0 s
  | .devClose => Sys2Proof.Machine.execDevClose s

end Sys2Proof.Machine
end

