-- ==== Sys2Proof/Machine/Engine.lean ====
section
/-! DEFINITION. The turns of the engine, of the environment and of the reset input (R94, R95, R180, R228, R250-R253). -/

namespace Sys2Proof.Machine

/-- The engine's turn. On BUSY it decodes and executes (R94); an illegal word raises EILL (R92). With no command, or one that
waits for the environment, there is nothing to do (R180, R97; log 13). -/
def engineTurn (s : State) : Result :=
  match s.phase with
  | .busy v =>
    match decode v with
    | .ok i => exec i s
    | .error _ => raise .eill .none s
  | .idle => .next s
  | .waitEnv _ _ _ => .next s

/-- How a waiting command goes on with the answer to its request (R95, R180). `refused` tells DEV_OPEN's two `Close` requests
apart (R185). -/
def resume (i : Instr) (req : EnvReq) (refused : Bool) (a : Answer) (s : State) : Result :=
  match req with
  | .openDev name => devOpenOpened name a s
  | .config name _ _ => devOpenConfigured name a s
  | .rx => devReadAnswered a s
  | .tx _ =>
    match i with
    | .sendUdp => sendUdpAnswered a s
    | .nop | .csum | .csumUdp | .parseSrc | .parseDst | .ipEnc | .tcpEnc | .udpEnc => devWriteAnswered a s
    | .devOpen | .devRead | .devWrite _ | .devClose => devWriteAnswered a s
  | .close =>
    match i with
    | .devOpen => if refused then devOpenRefused a s else devOpenReleased a s
    | .nop | .csum | .csumUdp | .parseSrc | .parseDst | .ipEnc | .tcpEnc | .udpEnc => devCloseAnswered a s
    | .sendUdp | .devRead | .devWrite _ | .devClose => devCloseAnswered a s

/-- The environment's turn: it answers the outstanding request, and only that (R180, R181; log 4). The `Close` that a reset sends
(R250) is not outstanding, since the block does not wait for it: an answer to it that came while no request is outstanding would
be unsolicited. The spec does not say whether such an answer comes, nor what it does: the model's choice (DESIGN CHOICE, log 19). -/
def environmentTurn (a : Answer) (s : State) : Result :=
  match s.phase with
  | .waitEnv i req refused => takeAnswer req a (resume i req refused) s
  | .idle => .fault .unsolicitedAnswer
  | .busy _ => .fault .unsolicitedAnswer

/-- A descriptor may exist: the handle is OPEN or a request is outstanding (R250). -/
def State.mayHoldDescriptor (s : State) : Bool :=
  s.handle.isOpen || match s.phase with
    | .waitEnv _ _ _ => true
    | .idle => false
    | .busy _ => false

/-- The reset input (R250-R252): registers, PHASE and HANDLE take their reset values; `Close` goes out without waiting for
an answer; every buffer byte is unspecified again (log 6, 14, 19). What lies outside the block goes on. -/
def resetTurn (s : State) : State :=
  { regs := Regs.reset
    status := Status.reset
    handle := .closed
    phase := .idle
    mem := []
    ipId := s.ipId
    inputs := s.inputs
    sent := if s.mayHoldDescriptor then s.sent ++ [.close] else s.sent
    resp := s.resp
    resets := s.resets + 1
    draws := s.draws }

end Sys2Proof.Machine
end

