-- ==== Sys2Proof/Machine/Step.lean ====
section
/-! DEFINITION. One step of the machine (R7, R228), and where a command word is put for the next step to run. -/

namespace Sys2Proof.Machine

/-- What happens next happens; with nothing left to happen outside, the engine has the turn (R228, R97; log 1). -/
def step (s : State) : Host.Outcome State Fault Refusal :=
  match s.inputs with
  | [] => engineTurn s
  | .engine :: rest => engineTurn { s with inputs := rest }
  | .access a :: rest => hostTurn a { s with inputs := rest }
  | .answer a :: rest => environmentTurn a { s with inputs := rest }
  | .reset :: rest => .next (resetTurn { s with inputs := rest })

/-- The state in which the command word of the `nbits` low bits of `w` has just been accepted (R93) and the engine has the
next turn: what the host's write to `CMD` leaves, so that the very next step runs it (log 2). -/
def State.withFetchWord (s : State) (nbits w : Nat) : State :=
  { s.accept (BitVec.ofNat 32 (w % 2 ^ nbits)) with inputs := .engine :: s.inputs }

end Sys2Proof.Machine
end

