-- ==== Sys2Proof/Safety.lean ====
section
/-! DEFINITION. What counts as a sound state and a safe run, and the words the statements use. -/

namespace Sys2Proof.Machine

/-! ### What a step leaves alone -/

/-- The commit of R96: IDLE, DONE set, this ERR and DEVSUB, WIGN as before. -/
def Committed (s t : State) (e : ErrCode) (d : DevSub) : Prop :=
  t.phase = .idle ∧ t.status = { done := true, wign := s.status.wign, err := e, devsub := d }

/-- Every byte of the address space reads as before. -/
def SameBytes (s t : State) : Prop := ∀ a : Nat, t.byte a = s.byte a

/-- Every byte outside the `n` bytes from address `lo` on reads as before. -/
def SameBytesOutside (s t : State) (lo n : Nat) : Prop := ∀ a : Nat, a < lo ∨ lo + n ≤ a → t.byte a = s.byte a

/-- The model's own fields, but for `inputs` and `sent`, are as before. -/
def SameOwn (s t : State) : Prop :=
  t.ipId = s.ipId ∧ t.resp = s.resp ∧ t.resets = s.resets ∧ t.draws = s.draws

/-- Nothing was asked of the environment and nothing was consumed. -/
def Untouched (s t : State) : Prop := SameOwn s t ∧ t.inputs = s.inputs ∧ t.sent = s.sent

/-- The environment was asked `reqs`, in this order, and `rest` is what is left to happen. -/
def Asked (s t : State) (reqs : List EnvReq) (rest : List Event) : Prop :=
  SameOwn s t ∧ t.sent = s.sent ++ reqs ∧ t.inputs = rest

/-- The command `i` ends with an error and changes nothing but `STATUS` and the phase (R224). -/
def FailsOnly (i : Instr) (s : State) (e : ErrCode) (d : DevSub) : Prop :=
  ∃ t, exec i s = .next t ∧ Committed s t e d ∧ t.regs = s.regs ∧ SameBytes s t ∧ t.handle = s.handle ∧ Untouched s t

/-- What happens next is not an answer of the environment. -/
def NoAnswerNext (s : State) : Prop := ∀ a rest, s.inputs ≠ .answer a :: rest

/-- The command waits for the environment with the request `req`, and nothing else changed but the request sent (R95, R180). -/
def Waits (s t : State) (i : Instr) (req : EnvReq) : Prop :=
  t = { s with phase := .waitEnv i req false, sent := s.sent ++ [req] }

/-- The command `i` is under way: accepted and not yet begun, or waiting (R45). -/
def State.runs (s : State) (i : Instr) : Prop := s.phase = .busy (encode i) ∨ ∃ req refused, s.phase = .waitEnv i req refused

/-- The input bytes of a command that reads `LEN` (R28). -/
def State.input (s : State) : List Byte := s.memRead .ibuf 0 s.regs.len.toNat

/-- `OBUF[0 : n]` holds exactly `bytes`, `OLEN` is their number, `ACC` is exactly `sum` and `RESULT` is `result`; every other
register and every other byte is as before (R47, R70). -/
def Emitted (s t : State) (bytes : List Byte) (sum : Nat) (result : Word) : Prop :=
  t.memRead .obuf 0 bytes.length = bytes ∧ SameBytesOutside s t Buf.obuf.base bytes.length
  ∧ t.regs.olen.toNat = bytes.length ∧ t.regs.acc.toNat = sum ∧ t.regs.result = result
  ∧ t.regs = { s.regs with olen := t.regs.olen, acc := t.regs.acc, result := t.regs.result }

/-- The 17-bit running sum with end-around carry of R129. -/
def endAroundSum (m : List Byte) : Nat :=
  (words m).foldl (fun s w => if 0xFFFF < s + w.toNat then s + w.toNat - 0xFFFF else s + w.toNat) 0

/-- R180's table, read for the answers it does not allow. -/
def ExcludedAnswer : EnvReq → Answer → Prop
  | .openDev _, .data _ => True
  | .config _ _ _, .data _ => True
  | .tx _, .data _ => True
  | .rx, .ok => True
  | .close, .fail => True
  | .close, .data _ => True
  | _, _ => False

/-! ### The host bus (R62, R63, R65) -/

/-- R65: the access answers SLVERR, for an access of width `w` at address `a`, a write or a read. The lines are R65's four
items, in order. -/
def AnswersSlverr (isWrite : Bool) (w : Width) (a : Nat) : Prop :=
  ((0x00100 ≤ a ∧ a ≤ 0x0FFFF) ∨ (0x30014 ≤ a ∧ a ≤ 0x3FFFF) ∨ 0x50000 ≤ a ∨ (0x44 ≤ a ∧ a ≤ 0x4F) ∨ (0x60 ≤ a ∧ a ≤ 0xFF))
  ∨ ((a < 0x100 ∧ w ≠ .w32) ∨ w = .w16 ∨ w = .w64)
  ∨ (w = .w32 ∧ a % 4 ≠ 0)
  ∨ (isWrite = true ∧ (a = 0x0C ∨ a = 0x10 ∨ a = 0x14 ∨ a = 0x40 ∨ (0x20000 ≤ a ∧ a ≤ 0x30013) ∨ (0x40000 ≤ a ∧ a ≤ 0x4FFFF)))

/-- R92: the three items that make a command word illegal. -/
def IllegalWord (v : Word) : Prop :=
  v.toNat / 512 ≠ 0
  ∨ ¬ v.toNat % 256 ∈ [0x00, 0x01, 0x02, 0x08, 0x09, 0x10, 0x20, 0x30, 0x40, 0x50, 0x51, 0x52, 0x53]
  ∨ (v.toNat / 256 % 2 = 1 ∧ v.toNat % 256 ≠ 0x52)

/-! ### Address text -/

/-- The decimal text of a byte, without leading zeros (R106). -/
def decimalText (c : Byte) : List Byte :=
  let digit (n : Nat) : Byte := BitVec.ofNat 8 (0x30 + n)
  let n := c.toNat
  if n < 10 then [digit n]
  else if n < 100 then [digit (n / 10), digit (n % 10)]
  else [digit (n / 100), digit (n / 10 % 10), digit (n % 10)]

/-- The dotted-quad text of an address (R106). -/
def dottedQuad (v : Word) : List Byte :=
  decimalText (v.extractLsb' 24 8) ++ [0x2E#8] ++ decimalText (v.extractLsb' 16 8) ++ [0x2E#8]
    ++ decimalText (v.extractLsb' 8 8) ++ [0x2E#8] ++ decimalText (v.extractLsb' 0 8)

/-! ### Which command writes which register (R47) -/

/-- R47's table, for the registers but `STATUS`; `CMD` is written at acceptance only. -/
def writesReg : Instr → Reg → Bool
  | .csum, .result | .csum, .acc => true
  | .csumUdp, .result | .csumUdp, .acc => true
  | .ipEnc, .olen | .ipEnc, .result | .ipEnc, .acc => true
  | .tcpEnc, .olen | .tcpEnc, .result | .tcpEnc, .acc => true
  | .udpEnc, .olen | .udpEnc, .result | .udpEnc, .acc => true
  | .sendUdp, .olen | .sendUdp, .result | .sendUdp, .acc => true
  | .parseSrc, .srcAddr => true
  | .parseDst, .dstAddr => true
  | .devRead, .rlen => true
  | _, _ => false

/-! ### Sound states -/

/-- The bus addresses of the buffers (R62). -/
def inBuffers (a : Nat) : Prop :=
  (0x10000 ≤ a ∧ a ≤ 0x1FFFF) ∨ (0x20000 ≤ a ∧ a ≤ 0x30013) ∨ (0x40000 ≤ a ∧ a ≤ 0x4FFFF)

/-- The requests a command can wait with, and what its rule has checked before it sends one (R185-R188, R200). -/
def waitFits (s : State) : Instr → EnvReq → Prop
  | .devOpen, .close => True
  | .devOpen, .openDev name => name.length = 16
  | .devOpen, .config name tun noPi => name.length = 16 ∧ tun = true ∧ noPi = true
  | .devRead, .rx => s.handle.isOpen = true ∧ s.regs.rmax.toNat ≤ Config.rbufSize
  | .devWrite _, .tx _ => s.handle.isOpen = true
  | .sendUdp, .tx _ => s.handle.isOpen = true ∧ s.regs.len.toNat ≤ Config.udpMaxPayload
  | .devClose, .close => s.handle.isOpen = true
  | _, _ => False

/-- The invariant of the machine. -/
structure State.Inv (s : State) : Prop where
  /-- The memory is in its canonical form. -/
  memWf : Memory.wf s.mem
  /-- Only buffer bytes are stored (R62). -/
  memInBuffers : ∀ c ∈ s.mem, inBuffers c.1
  /-- "OLEN ≤ OBUF_SIZE always" (R187). -/
  olenBound : s.regs.olen.toNat ≤ Config.obufSize
  /-- RLEN counts bytes of RBUF (R42, R186). -/
  rlenBound : s.regs.rlen.toNat ≤ Config.rbufSize
  /-- The largest sum of R123. -/
  accBound : s.regs.acc.toNat ≤ 0x800F7FF0
  /-- Reserved bits of TCPCTL read as 0 (R24, R36). -/
  tcpctlReserved : s.regs.tcpctl &&& 0xFFFFC0F0#32 = 0#32
  /-- Reserved bits of IPCFG read as 0 (R24, R38). -/
  ipcfgReserved : s.regs.ipcfg &&& 0xFFFF0000#32 = 0#32
  /-- Reserved bits of PLEN read as 0 (R24, R39). -/
  plenReserved : s.regs.plen &&& 0xFFFF0000#32 = 0#32
  /-- DEVSUB is 0 unless ERR = 3, and EDEV always has a sub-cause (R26, R222). -/
  devsubOfEdev : s.status.devsub ≠ .none ↔ s.status.err = .edev
  /-- From acceptance to commit DONE, ERR and DEVSUB are 0 (R93, R96). -/
  busyClear : s.phase.isBusy = true → s.status.done = false ∧ s.status.err = .none ∧ s.status.devsub = .none
  /-- CMD holds the command that is under way (R25, R67). -/
  busyCmd : ∀ v, s.phase = .busy v → s.regs.cmd = v
  /-- The same, for a command that waits. -/
  waitCmd : ∀ i req refused, s.phase = .waitEnv i req refused → s.regs.cmd = encode i
  /-- A command waits only with a request of its own (R95, R180). -/
  waitReq : ∀ i req refused, s.phase = .waitEnv i req refused → waitFits s i req
  /-- The request a command waits for is the last one sent (R180). -/
  waitSent : ∀ i req refused, s.phase = .waitEnv i req refused → s.sent.getLast? = some req
  /-- Only DEV_OPEN has a second `Close` (R185). -/
  waitRefused : ∀ i req, s.phase = .waitEnv i req true → i = .devOpen ∧ req = .close
  /-- The name of an open handle has 16 bytes (R40). -/
  handleName : ∀ name, s.handle = .opened name → name.length = 16

/-! ### Safe runs -/

/-- A state reached in some number of steps. -/
inductive Reaches (s : State) : State → Prop
  | refl : Reaches s s
  | next {t u : State} : Reaches s t → step t = .next u → Reaches s u

/-- A run is safe when no step of it stops: no access of the host answers SLVERR (R65), and the environment keeps its duties
(R181). -/
def SafeFrom (s : State) : Prop := ∀ t, Reaches s t → ∃ u, step t = .next u

end Sys2Proof.Machine
end

