-- ==== Sys2Proof/Certificates/Slice0/Obligations.lean ====
section
/-! DEFINITION. The statements about the model, for the provers. Each docstring names the rule of spec/ that it formalises. What
happens outside the block stands in `inputs`, oldest first: that list, and the fields `sent` and `resp`, are the model's form
of the rules' events (log 1, 10, 11). -/

open Sys2Proof Sys2Proof.Machine

/-! ### Encoding -/

/-- R91: each word of the opcode map decodes to its command. -/
def Obligations.TableWordsDecode : Prop :=
  decode 0b00000000000000000000000000000000#32 = .ok .nop
  ∧ decode 0b00000000000000000000000000000001#32 = .ok .csum
  ∧ decode 0b00000000000000000000000000001000#32 = .ok .parseSrc
  ∧ decode 0b00000000000000000000000000010000#32 = .ok .ipEnc
  ∧ decode 0b00000000000000000000000000100000#32 = .ok .tcpEnc
  ∧ decode 0b00000000000000000000000000110000#32 = .ok .udpEnc
  ∧ decode 0b00000000000000000000000001000000#32 = .ok .sendUdp
  ∧ decode 0b00000000000000000000000001010010#32 = .ok (.devWrite false)
  ∧ decode 0b00000000000000000000000101010010#32 = .ok (.devWrite true)
  ∧ decode 0b00000000000000000000000001010011#32 = .ok .devClose

/-- Decoder and encoder agree in both directions, on every word and every command (R90, R91). -/
def Obligations.DecodeEncodeAgree : Prop :=
  ∀ (w : Word) (i : Instr), decode w = .ok i ↔ i.wellFormed = true ∧ encode i = w

/-- R92: the illegal words, and what becomes of one. -/
def Obligations.IllegalWordsCommitEill : Prop :=
  ∀ v : Word,
    (IllegalWord v ↔ ∃ x, decode v = .error x) ∧
    (IllegalWord v → ∀ (s : State) (rest : List Event),
      (s.phase = .idle → s.inputs = .access (.write .w32 0x00000#20 v) :: rest →
        ∃ t, step s = .next t ∧ t.phase = .busy v ∧ t.inputs = rest ∧ t.regs = { s.regs with cmd := v }) ∧
      (s.phase = .busy v → s.inputs = .engine :: rest →
        ∃ t, step s = .next t ∧ Committed s t .eill .none ∧ t.regs = s.regs ∧ SameBytes s t ∧ t.handle = s.handle
          ∧ Asked s t [] rest))

/-! ### Steps -/

/-- R94: on BUSY the engine decodes the accepted word; a legal one is executed, an illegal one raises EILL. With no input
left the engine has the turn (log 1). -/
def Obligations.StepRunsDecodedCommand : Prop :=
  ∀ (s : State) (v : Word), s.phase = .busy v →
    (∀ i, decode v = .ok i →
      (∀ rest, s.inputs = .engine :: rest → step s = exec i { s with inputs := rest }) ∧
      (s.inputs = [] → step s = exec i s)) ∧
    (∀ x, decode v = .error x →
      (∀ rest, s.inputs = .engine :: rest → step s = raise .eill .none { s with inputs := rest }) ∧
      (s.inputs = [] → step s = raise .eill .none s))

/-- A word put by `withFetchWord` is what the very next step runs, as an accepted command (the model's own convention, log 2;
acceptance is R93). -/
def Obligations.FetchedWordRunsNext : Prop :=
  ∀ (s : State) (i : Instr), step (s.withFetchWord 32 (encode i).toNat) = exec i (s.accept (encode i))

/-- R93: acceptance, and nothing else changes but what happens next and the bus response. -/
def Obligations.CommandAcceptance : Prop :=
  ∀ (s : State) (v : Word) (rest : List Event), s.inputs = .access (.write .w32 0x00000#20 v) :: rest →
    (s.phase = .idle → step s = .next { s with
      regs := { s.regs with cmd := v }
      status := { done := false, wign := s.status.wign, err := .none, devsub := .none }
      phase := .busy v
      inputs := rest
      resp := .okay }) ∧
    (s.phase ≠ .idle → step s = .next { s with
      status := { s.status with wign := true }
      inputs := rest
      resp := .okay })

/-- R95, R96, R72: a command ends with one commit, or waits for the environment with everything the host can see still as it was:
what a command writes becomes visible at its commit. DEVSUB is 0 unless ERR is EDEV. That HANDLE too changes at the commit is log
20. -/
def Obligations.CommandCommitsOrWaits : Prop :=
  ∀ (i : Instr) (s t : State), exec i s = .next t →
    (∃ e d, Committed s t e d ∧ (d ≠ .none ↔ e = .edev)) ∨
    (∃ req refused, t.phase = .waitEnv i req refused ∧ t.status = s.status ∧ t.regs = s.regs ∧ SameBytes s t
      ∧ t.handle = s.handle)

/-- R220, R97: no command stops the block. Only an answer that R180 excludes can stop one (log 4). -/
def Obligations.EveryCommandRuns : Prop :=
  ∀ (i : Instr) (s : State),
    (NoAnswerNext s → ∃ t, exec i s = .next t) ∧
    ((∃ t, exec i s = .next t) ∨ exec i s = .fault .answerNotAllowed)

/-- R95: a command continues when its answer comes. That an answer which is next is taken in the step of its request is the model's
choice (log 3); this says that it is the same: an answer that comes late, whatever follows it, gives what it gives when it is next. -/
def Obligations.LateAnswerAsPromptAnswer : Prop :=
  ∀ (i : Instr) (s t : State) (req : EnvReq) (refused : Bool) (a : Answer) (rest : List Event),
    exec i s = .next t → t.phase = .waitEnv i req refused → t.inputs = [] →
    step { t with inputs := .answer a :: rest } = exec i { s with inputs := s.inputs ++ .answer a :: rest }

/-- R97: while a command waits for the environment, neither the host nor the engine ends it; only an answer or reset does. -/
def Obligations.WaitEndsOnlyByAnswerOrReset : Prop :=
  ∀ (s t : State) (i : Instr) (req : EnvReq) (refused : Bool), s.phase = .waitEnv i req refused → step s = .next t →
    (∃ a rest, s.inputs = .answer a :: rest) ∨ (∃ rest, s.inputs = .reset :: rest) ∨
      (t.phase = .waitEnv i req refused ∧ t.handle = s.handle ∧ t.regs = s.regs ∧ SameBytes s t ∧ t.sent = s.sent)

/-- U25, R181: the environment answers only the outstanding request, and with an answer of R180's table; anything else stops the
model (log 4, log 19), and nothing else does. -/
def Obligations.UnsolicitedAnswerStops : Prop :=
  ∀ (s : State) (a : Answer) (rest : List Event), s.inputs = .answer a :: rest →
    ((∀ i req refused, s.phase ≠ .waitEnv i req refused) → step s = .fault .unsolicitedAnswer) ∧
    (∀ i req refused, s.phase = .waitEnv i req refused →
      (ExcludedAnswer req a → step s = .fault .answerNotAllowed) ∧
      (¬ ExcludedAnswer req a → (∀ b more, rest ≠ .answer b :: more) → ∃ t, step s = .next t))

/-! ### The host bus -/

/-- R65: which accesses answer SLVERR, and that every other access is carried out. -/
def Obligations.SlverrExactly : Prop :=
  ∀ (s : State) (rest : List Event) (w : Width) (addr : BitVec 20) (v : Word),
    (s.inputs = .access (.read w addr) :: rest →
      (AnswersSlverr false w addr.toNat → step s = .fault .slverr) ∧
      (¬ AnswersSlverr false w addr.toNat → ∃ t, step s = .next t)) ∧
    (s.inputs = .access (.write w addr v) :: rest →
      (AnswersSlverr true w addr.toNat → step s = .fault .slverr) ∧
      (¬ AnswersSlverr true w addr.toNat → ∃ t, step s = .next t))

/-- R23, R66: a 32-bit read of each register returns its current value, and changes nothing in the block. -/
def Obligations.RegisterReads : Prop :=
  ∀ (s : State) (rest : List Event), ∀ p ∈
    ([ (0x00#20, s.regs.cmd), (0x04#20, s.statusWord), (0x08#20, s.regs.len), (0x0C#20, s.regs.olen),
       (0x10#20, s.regs.result), (0x14#20, s.regs.acc), (0x18#20, s.regs.srcAddr), (0x1C#20, s.regs.dstAddr),
       (0x20#20, s.regs.ports), (0x24#20, s.regs.seq), (0x28#20, s.regs.ackn), (0x2C#20, s.regs.tcpctl),
       (0x30#20, s.regs.winurg), (0x34#20, s.regs.ipcfg), (0x38#20, s.regs.plen), (0x3C#20, s.regs.rmax),
       (0x40#20, s.regs.rlen), (0x50#20, s.regs.devname0), (0x54#20, s.regs.devname1), (0x58#20, s.regs.devname2),
       (0x5C#20, s.regs.devname3) ] : List (BitVec 20 × Word)),
    s.inputs = .access (.read .w32 p.1) :: rest → step s = .next { s with inputs := rest, resp := .data p.2 }

/-- R26: where the fields of `STATUS` stand in the word a read returns, with the codes of R221 and R222. BUSY and DEVOPEN are what
R45 and R40 say. -/
def Obligations.StatusWordFields : Prop :=
  ∀ s : State,
    s.statusWord.getLsbD 0 = decide (s.phase ≠ .idle) ∧ s.statusWord.getLsbD 1 = s.status.done
    ∧ s.statusWord.getLsbD 2 = s.status.wign ∧ s.statusWord.getLsbD 3 = decide (s.handle ≠ .closed)
    ∧ s.statusWord.extractLsb' 4 4 =
      (match s.status.err with
        | .none => 0#4
        | .eaddr => 1#4
        | .esize => 2#4
        | .edev => 3#4
        | .elen => 4#4
        | .eill => 5#4)
    ∧ s.statusWord.extractLsb' 8 4 =
      (match s.status.devsub with
        | .none => 0#4
        | .openFailed => 1#4
        | .configFailed => 2#4
        | .readFailed => 3#4
        | .writeFailed => 4#4
        | .notOpen => 5#4)
    ∧ s.statusWord.extractLsb' 12 20 = 0#20

/-- R24: a host write to an operand register while IDLE stores the bits of its fields, drops the reserved ones, and changes no
other register and no byte. -/
def Obligations.RegisterWriteTruncates : Prop :=
  ∀ (s : State) (rest : List Event) (v : Word), ∀ p ∈
    ([ (0x08#20, .len, 0xFFFFFFFF#32), (0x18#20, .srcAddr, 0xFFFFFFFF#32), (0x1C#20, .dstAddr, 0xFFFFFFFF#32),
       (0x20#20, .ports, 0xFFFFFFFF#32), (0x24#20, .seq, 0xFFFFFFFF#32), (0x28#20, .ackn, 0xFFFFFFFF#32),
       (0x2C#20, .tcpctl, 0x00003F0F#32), (0x30#20, .winurg, 0xFFFFFFFF#32), (0x34#20, .ipcfg, 0x0000FFFF#32),
       (0x38#20, .plen, 0x0000FFFF#32), (0x3C#20, .rmax, 0xFFFFFFFF#32), (0x50#20, .devname0, 0xFFFFFFFF#32),
       (0x54#20, .devname1, 0xFFFFFFFF#32), (0x58#20, .devname2, 0xFFFFFFFF#32), (0x5C#20, .devname3, 0xFFFFFFFF#32) ]
      : List (BitVec 20 × Reg × Word)),
    s.phase = .idle → s.inputs = .access (.write .w32 p.1 v) :: rest →
      ∃ t, step s = .next t ∧ t.readReg p.2.1 = v &&& p.2.2 ∧ (∀ r, r ≠ p.2.1 → t.readReg r = s.readReg r)
        ∧ SameBytes s t ∧ t.handle = s.handle ∧ t.phase = .idle ∧ t.inputs = rest ∧ t.resp = .okay

/-- R27: a host write to `STATUS`, in any phase. -/
def Obligations.StatusWriteClears : Prop :=
  ∀ (s : State) (rest : List Event) (v : Word), s.inputs = .access (.write .w32 0x04#20 v) :: rest →
    step s = .next { s with
      status := { s.status with
        done := if v.getLsbD 1 then false else s.status.done
        wign := if v.getLsbD 2 then false else s.status.wign }
      inputs := rest
      resp := .okay }

/-- R67: while BUSY, an accepted write to anything but `STATUS` is dropped, sets WIGN, and answers OKAY. -/
def Obligations.BusyWritesDropped : Prop :=
  ∀ (s : State) (rest : List Event) (w : Width) (addr : BitVec 20) (v : Word),
    s.inputs = .access (.write w addr v) :: rest → s.phase ≠ .idle → ¬ AnswersSlverr true w addr.toNat →
    addr ≠ 0x04#20 → step s = .next { s with status := { s.status with wign := true }, inputs := rest, resp := .okay }

/-- R67: from acceptance to commit the operands stay as they are: every register that only the host writes, `CMD`, and every byte of
`IBUF`; `SRC_ADDR` and `DST_ADDR` but for the commit of PARSE_SRC and of PARSE_DST (R47). -/
def Obligations.OperandsFixedWhileBusy : Prop :=
  ∀ (s t : State), s.phase ≠ .idle → (∀ rest, s.inputs ≠ .reset :: rest) → step s = .next t →
    (∀ r ∈ ([.cmd, .len, .ports, .seq, .ackn, .tcpctl, .winurg, .ipcfg, .plen, .rmax, .devname0, .devname1, .devname2,
             .devname3] : List Reg), t.readReg r = s.readReg r) ∧
    (t.readReg .srcAddr = s.readReg .srcAddr ∨ (s.phase = .busy (encode .parseSrc) ∧ t.phase = .idle)) ∧
    (t.readReg .dstAddr = s.readReg .dstAddr ∨ (s.phase = .busy (encode .parseDst) ∧ t.phase = .idle)) ∧
    (∀ a : Nat, 0x10000 ≤ a → a ≤ 0x1FFFF → t.byte a = s.byte a)

/-- R64: a 32-bit write to `IBUF` while IDLE puts bits 8i+7:8i at byte `i`, and changes no other byte and no register. -/
def Obligations.InputWordLanes : Prop :=
  ∀ (s : State) (rest : List Event) (addr : BitVec 20) (v : Word),
    s.inputs = .access (.write .w32 addr v) :: rest → s.phase = .idle → 0x10000 ≤ addr.toNat → addr.toNat ≤ 0x1FFFF →
    addr.toNat % 4 = 0 →
    ∃ t, step s = .next t
      ∧ t.byte addr.toNat = v.extractLsb' 0 8 ∧ t.byte (addr.toNat + 1) = v.extractLsb' 8 8
      ∧ t.byte (addr.toNat + 2) = v.extractLsb' 16 8 ∧ t.byte (addr.toNat + 3) = v.extractLsb' 24 8
      ∧ SameBytesOutside s t addr.toNat 4 ∧ t.regs = s.regs ∧ t.status = s.status ∧ t.phase = s.phase
      ∧ t.handle = s.handle ∧ t.inputs = rest ∧ t.resp = .okay

/-- R63: an 8-bit write to `IBUF` while IDLE writes that byte, and changes no other byte and no register. -/
def Obligations.InputByteWrite : Prop :=
  ∀ (s : State) (rest : List Event) (addr : BitVec 20) (v : Word),
    s.inputs = .access (.write .w8 addr v) :: rest → s.phase = .idle → 0x10000 ≤ addr.toNat → addr.toNat ≤ 0x1FFFF →
    ∃ t, step s = .next t ∧ t.byte addr.toNat = v.extractLsb' 0 8 ∧ SameBytesOutside s t addr.toNat 1 ∧ t.regs = s.regs
      ∧ t.status = s.status ∧ t.phase = s.phase ∧ t.handle = s.handle ∧ t.inputs = rest ∧ t.resp = .okay

/-- R64, R66: what a read of a buffer returns: the stored bytes in little-endian lanes, or the one byte; of `OBUF` and `RBUF` only
while not BUSY. Nothing in the block changes. That read data of 8 bits has zeros above it is the model's choice (log 10). -/
def Obligations.BufferReads : Prop :=
  ∀ (s : State) (rest : List Event) (addr : BitVec 20), inBuffers addr.toNat →
    (s.phase = .idle ∨ addr.toNat ≤ 0x1FFFF) →
    (s.inputs = .access (.read .w8 addr) :: rest →
      step s = .next { s with inputs := rest, resp := .data (0#24 ++ s.byte addr.toNat) }) ∧
    (s.inputs = .access (.read .w32 addr) :: rest → addr.toNat % 4 = 0 →
      step s = .next { s with inputs := rest, resp := .data (s.byte (addr.toNat + 3) ++ s.byte (addr.toNat + 2)
        ++ s.byte (addr.toNat + 1) ++ s.byte addr.toNat) })

/-- R66: while BUSY a read of `OBUF` or `RBUF` is answered with some value, and changes nothing in the block. The value is free:
nothing is said of it (log 7). -/
def Obligations.BusyBufferReads : Prop :=
  ∀ (s : State) (rest : List Event) (w : Width) (addr : BitVec 20),
    s.inputs = .access (.read w addr) :: rest → s.phase ≠ .idle → inBuffers addr.toNat → 0x20000 ≤ addr.toNat →
    (w = .w8 ∨ (w = .w32 ∧ addr.toNat % 4 = 0)) →
    ∃ v, step s = .next { s with inputs := rest, resp := .data v, draws := s.draws + 1 }

/-! ### Checksums -/

/-- R128 item 1, R122: what the loop of Fold gives. -/
def Obligations.FoldIsResidue : Prop :=
  ∀ s : Nat, (fold s = 0 ↔ s = 0) ∧ (0 < s → 1 ≤ fold s ∧ fold s ≤ 0xFFFF ∧ fold s % 0xFFFF = s % 0xFFFF)

/-- R122: for every sum below 2^32 the loop runs at most twice. -/
def Obligations.FoldLoopsAtMostTwice : Prop := ∀ s : Nat, s < 2 ^ 32 → fold s = foldLoop 2 s

/-- R128 item 2: when a checksum is 0xFFFF, and when it is 0x0000. -/
def Obligations.ChecksumExtremes : Prop :=
  ∀ m : List Byte,
    (checksum m = 0xFFFF#16 ↔ ∀ w ∈ words m, w = 0#16) ∧
    (checksum m = 0x0000#16 ↔ 0 < sum16 m ∧ sum16 m % 0xFFFF = 0)

/-- R128 item 4: when two checksums are equal. -/
def Obligations.ChecksumEqualIff : Prop :=
  ∀ m m' : List Byte, checksum m = checksum m' ↔
    (sum16 m = 0 ∧ sum16 m' = 0) ∨ (0 < sum16 m ∧ 0 < sum16 m' ∧ sum16 m % 0xFFFF = sum16 m' % 0xFFFF)

/-- R128 item 3, C2: only the multiset of words counts; so IP_ENC gives the same `RESULT` and `ACC` with the addresses swapped. -/
def Obligations.ChecksumIgnoresWordOrder : Prop :=
  (∀ m m' : List Byte, (words m).Perm (words m') → checksum m = checksum m') ∧
  (∀ s t u : State, exec .ipEnc s = .next t →
    exec .ipEnc { s with regs := { s.regs with srcAddr := s.regs.dstAddr, dstAddr := s.regs.srcAddr } } = .next u →
    u.regs.result = t.regs.result ∧ u.regs.acc = t.regs.acc)

/-- R129: the 17-bit running sum with end-around carry gives the same folded sum. -/
def Obligations.EndAroundCarryAgrees : Prop := ∀ m : List Byte, endAroundSum m = fold (sum16 m)

/-- R120: an odd last byte counts as if a zero byte followed it; two pieces, the first of even length, sum separately. -/
def Obligations.OddBytePadded : Prop :=
  ∀ m n : List Byte,
    (m.length % 2 = 1 → words m = words (m ++ [0x00#8])) ∧
    (m.length % 2 = 0 → sum16 (m ++ n) = sum16 m + sum16 n)

/-- R128 item 6: with the stored checksum in place, header or pseudo-header and segment fold to 0xFFFF. -/
def Obligations.VerificationSums : Prop :=
  (∀ (id : Half) (src dst : Word) (proto : Byte) (plen : Nat) (ttl : Byte),
    fold (sum16 (ipHdr id src dst proto plen ttl)) = 0xFFFF) ∧
  (∀ (g : Regs) (p : List Byte),
    fold (sum16 (pseudo g.srcAddr g.dstAddr 6#8 (20 + p.length) ++ (g.tcpArtifact p).bytes)) = 0xFFFF) ∧
  (∀ (src dst : Word) (sp dp : Half) (p : List Byte),
    fold (sum16 (pseudo src dst 17#8 (8 + p.length) ++ (udpSeg src dst sp dp p).bytes)) = 0xFFFF)

/-- R128 item 5, C4: zeroing the checksum field of what was encoded and summing again gives the stored checksum; for UDP unless the
substitution fired. -/
def Obligations.ChecksumRoundTrip : Prop :=
  (∀ (id : Half) (src dst : Word) (proto : Byte) (plen : Nat) (ttl : Byte),
    let h := ipHdr id src dst proto plen ttl
    be16 (checksum (h.take 10 ++ [0x00#8, 0x00#8] ++ h.drop 12)) = (h.drop 10).take 2) ∧
  (∀ (g : Regs) (p : List Byte),
    let h := (g.tcpArtifact p).bytes
    be16 (checksum (pseudo g.srcAddr g.dstAddr 6#8 (20 + p.length) ++ (h.take 16 ++ [0x00#8, 0x00#8] ++ h.drop 18)))
      = (h.drop 16).take 2) ∧
  (∀ (src dst : Word) (sp dp : Half) (p : List Byte),
    let h := (udpSeg src dst sp dp p).bytes
    let c := checksum (pseudo src dst 17#8 (8 + p.length) ++ (h.take 6 ++ [0x00#8, 0x00#8] ++ h.drop 8))
    (c ≠ 0x0000#16 → be16 c = (h.drop 6).take 2) ∧ (c = 0x0000#16 → (h.drop 6).take 2 = [0xFF#8, 0xFF#8]))

/-- R126. -/
def Obligations.CsumResult : Prop :=
  decode 0x00000001#32 = .ok .csum ∧
  ∀ s : State,
    (s.regs.len.toNat ≤ 65536 →
      ∃ t, exec .csum s = .next t ∧ Committed s t .none .none
        ∧ t.regs.acc.toNat = sum16 s.input ∧ t.regs.result = 0#16 ++ checksum s.input
        ∧ t.regs = { s.regs with acc := t.regs.acc, result := t.regs.result }
        ∧ SameBytes s t ∧ t.handle = s.handle ∧ Untouched s t) ∧
    (65536 < s.regs.len.toNat → FailsOnly .csum s .elen .none)

/-- R127. -/
def Obligations.CsumUdpResult : Prop :=
  decode 0x00000002#32 = .ok .csumUdp ∧
  ∀ s : State,
    (s.regs.len.toNat ≤ 65536 →
      ∃ t, exec .csumUdp s = .next t ∧ Committed s t .none .none
        ∧ t.regs.acc.toNat = sum16 s.input
        ∧ t.regs.result = (if checksum s.input = 0x0000#16 then 0x0000FFFF#32 else 0#16 ++ checksum s.input)
        ∧ t.regs.result ≠ 0#32
        ∧ t.regs = { s.regs with acc := t.regs.acc, result := t.regs.result }
        ∧ SameBytes s t ∧ t.handle = s.handle ∧ Untouched s t) ∧
    (65536 < s.regs.len.toNat → FailsOnly .csumUdp s .elen .none)

/-! ### Addresses -/

/-- R106, R142: the text that is accepted is exactly the dotted-quad text of the address it gives; there is one text per
address. -/
def Obligations.AddressTextExactly : Prop := ∀ (t : List Byte) (v : Word), parseAddr t = some v ↔ t = dottedQuad v

/-- R140, with the texts of R106. -/
def Obligations.ParseSrcResult : Prop :=
  decode 0x00000008#32 = .ok .parseSrc ∧
  ∀ s : State,
    (s.regs.len.toNat ≤ 65536 →
      (∀ v, s.input = dottedQuad v →
        ∃ t, exec .parseSrc s = .next t ∧ Committed s t .none .none ∧ t.regs = { s.regs with srcAddr := v }
          ∧ SameBytes s t ∧ t.handle = s.handle ∧ Untouched s t) ∧
      ((∀ v, s.input ≠ dottedQuad v) → FailsOnly .parseSrc s .eaddr .none)) ∧
    (65536 < s.regs.len.toNat → FailsOnly .parseSrc s .elen .none)

/-- R141, with the texts of R106. -/
def Obligations.ParseDstResult : Prop :=
  decode 0x00000009#32 = .ok .parseDst ∧
  ∀ s : State,
    (s.regs.len.toNat ≤ 65536 →
      (∀ v, s.input = dottedQuad v →
        ∃ t, exec .parseDst s = .next t ∧ Committed s t .none .none ∧ t.regs = { s.regs with dstAddr := v }
          ∧ SameBytes s t ∧ t.handle = s.handle ∧ Untouched s t) ∧
      ((∀ v, s.input ≠ dottedQuad v) → FailsOnly .parseDst s .eaddr .none)) ∧
    (65536 < s.regs.len.toNat → FailsOnly .parseDst s .elen .none)

/-! ### Headers -/

/-- R101, R144: the 20 bytes of an IPv4 header. -/
def Obligations.IpHeaderBytes : Prop :=
  ∀ (id : Half) (src dst : Word) (proto : Byte) (plen : Nat) (ttl : Byte),
    let total := BitVec.ofNat 16 ((20 + plen) % 2 ^ 16)
    let c := checksum (ipHdr0 id src dst proto plen ttl)
    ipHdr id src dst proto plen ttl =
      [0x45#8, 0x00#8, total.extractLsb' 8 8, total.extractLsb' 0 8, id.extractLsb' 8 8, id.extractLsb' 0 8, 0x40#8, 0x00#8,
       ttl, proto, c.extractLsb' 8 8, c.extractLsb' 0 8,
       src.extractLsb' 24 8, src.extractLsb' 16 8, src.extractLsb' 8 8, src.extractLsb' 0 8,
       dst.extractLsb' 24 8, dst.extractLsb' 16 8, dst.extractLsb' 8 8, dst.extractLsb' 0 8]

/-- R145. -/
def Obligations.IpEncResult : Prop :=
  decode 0x00000010#32 = .ok .ipEnc ∧
  ∀ s : State,
    let h0 := ipHdr0 s.ipId s.regs.srcAddr s.regs.dstAddr (s.regs.ipcfg.extractLsb' 0 8) (s.regs.plen.toNat % 65536)
      (s.regs.ipcfg.extractLsb' 8 8)
    let c := checksum h0
    ∃ t, exec .ipEnc s = .next t ∧ Committed s t .none .none
      ∧ Emitted s t (h0.take 10 ++ [c.extractLsb' 8 8, c.extractLsb' 0 8] ++ h0.drop 12) (sum16 h0) (0#16 ++ c)
      ∧ t.handle = s.handle ∧ Untouched s t

/-- R162, with the header of R160 and R161. -/
def Obligations.TcpEncResult : Prop :=
  decode 0x00000020#32 = .ok .tcpEnc ∧
  ∀ s : State,
    (s.regs.len.toNat ≤ 65536 →
      let g := s.regs
      let p := s.input
      let h0 := be16 (g.ports.extractLsb' 16 16) ++ be16 (g.ports.extractLsb' 0 16) ++ be32 g.seq ++ be32 g.ackn
        ++ be16 (g.tcpctl.extractLsb' 0 4 ++ 0#6 ++ g.tcpctl.extractLsb' 8 6)
        ++ be16 (g.winurg.extractLsb' 16 16) ++ [0x00#8, 0x00#8] ++ be16 (g.winurg.extractLsb' 0 16)
      let m := be32 g.srcAddr ++ be32 g.dstAddr ++ [0x00#8, 0x06#8] ++ be16 (BitVec.ofNat 16 (20 + g.len.toNat)) ++ h0 ++ p
      ∃ t, exec .tcpEnc s = .next t ∧ Committed s t .none .none
        ∧ Emitted s t (h0.take 16 ++ be16 (checksum m) ++ h0.drop 18 ++ p) (sum16 m) (0#16 ++ checksum m)
        ∧ t.handle = s.handle ∧ Untouched s t) ∧
    (65536 < s.regs.len.toNat → FailsOnly .tcpEnc s .elen .none)

/-- R172, R171, with the segment of R173. -/
def Obligations.UdpEncResult : Prop :=
  decode 0x00000030#32 = .ok .udpEnc ∧
  ∀ s : State,
    (s.regs.len.toNat ≤ 65527 →
      let g := s.regs
      let p := s.input
      let n := BitVec.ofNat 16 (8 + g.len.toNat)
      let h := be16 (g.ports.extractLsb' 16 16) ++ be16 (g.ports.extractLsb' 0 16) ++ be16 n
      let m := be32 g.srcAddr ++ be32 g.dstAddr ++ [0x00#8, 0x11#8] ++ be16 n ++ (h ++ [0x00#8, 0x00#8]) ++ p
      let c := if checksum m = 0x0000#16 then 0xFFFF#16 else checksum m
      ∃ t, exec .udpEnc s = .next t ∧ Committed s t .none .none
        ∧ Emitted s t (h ++ be16 c ++ p) (sum16 m) (0#16 ++ c) ∧ t.handle = s.handle ∧ Untouched s t) ∧
    (65527 < s.regs.len.toNat → s.regs.len.toNat ≤ 65536 → FailsOnly .udpEnc s .esize .none) ∧
    (65536 < s.regs.len.toNat → FailsOnly .udpEnc s .elen .none)

/-- R99: IP_ENC reads nothing but `SRC_ADDR`, `DST_ADDR`, `IPCFG` and `PLEN` (and the instance's `IP_ID`). -/
def Obligations.IpEncReadsOnlyItsOperands : Prop :=
  ∀ s s' : State, s.ipId = s'.ipId → s.regs.srcAddr = s'.regs.srcAddr → s.regs.dstAddr = s'.regs.dstAddr →
    s.regs.ipcfg = s'.regs.ipcfg → s.regs.plen = s'.regs.plen →
    ∃ t t', exec .ipEnc s = .next t ∧ exec .ipEnc s' = .next t' ∧ t.regs.result = t'.regs.result ∧ t.regs.acc = t'.regs.acc
      ∧ t.memRead .obuf 0 20 = t'.memRead .obuf 0 20

/-! ### Device commands -/

/-- R105: the 40 bytes of the configuration record, with R8's default constants (log 15). -/
def Obligations.ConfigRecordBytes : Prop :=
  ∀ name : List Byte, name.length = 16 →
    (configRecord name).length = 40 ∧ (configRecord name).take 16 = name
      ∧ ((configRecord name).drop 16).take 2 = [0x01#8, 0x10#8] ∧ (configRecord name).drop 18 = List.replicate 22 0x00#8

/-- R185, R182: DEV_OPEN with each answer of the environment next, and with none. That an answer which is next is taken in the same
step is the model's choice (log 3). -/
def Obligations.DevOpenResult : Prop :=
  decode 0x00000050#32 = .ok .devOpen ∧
  ∀ (s : State) (rest : List Event),
    let n := lanes s.regs.devname0 ++ lanes s.regs.devname1 ++ lanes s.regs.devname2 ++ lanes s.regs.devname3
    let closing : List EnvReq := if s.handle = .closed then [] else [.close]
    let closed : List Event := if s.handle = .closed then [] else [.answer .ok]
    (s.inputs = closed ++ .answer .ok :: .answer .ok :: rest →
      ∃ t, exec .devOpen s = .next t ∧ Committed s t .none .none ∧ t.handle = .opened n ∧ t.regs = s.regs ∧ SameBytes s t
        ∧ Asked s t (closing ++ [.openDev n, .config n true true]) rest) ∧
    (s.inputs = closed ++ .answer .fail :: rest →
      ∃ t, exec .devOpen s = .next t ∧ Committed s t .edev .openFailed ∧ t.handle = .closed ∧ t.regs = s.regs
        ∧ SameBytes s t ∧ Asked s t (closing ++ [.openDev n]) rest) ∧
    (s.inputs = closed ++ .answer .ok :: .answer .fail :: .answer .ok :: rest →
      ∃ t, exec .devOpen s = .next t ∧ Committed s t .edev .configFailed ∧ t.handle = .closed ∧ t.regs = s.regs
        ∧ SameBytes s t ∧ Asked s t (closing ++ [.openDev n, .config n true true, .close]) rest) ∧
    (NoAnswerNext s → ∃ t, exec .devOpen s = .next t ∧
      Waits s t .devOpen (if s.handle = .closed then .openDev n else .close))

/-- R186; an answer that is next is taken in the same step (log 3). -/
def Obligations.DevReadResult : Prop :=
  decode 0x00000051#32 = .ok .devRead ∧
  ∀ s : State,
    (65536 < s.regs.rmax.toNat → FailsOnly .devRead s .elen .none) ∧
    (s.regs.rmax.toNat ≤ 65536 → s.handle = .closed → FailsOnly .devRead s .edev .notOpen) ∧
    (s.regs.rmax.toNat ≤ 65536 → s.handle ≠ .closed →
      (∀ d rest, s.inputs = .answer (.data d) :: rest →
        ∃ t, exec .devRead s = .next t ∧ Committed s t .none .none
          ∧ t.memRead .rbuf 0 (min d.length s.regs.rmax.toNat) = d.take s.regs.rmax.toNat
          ∧ SameBytesOutside s t Buf.rbuf.base (min d.length s.regs.rmax.toNat)
          ∧ t.regs.rlen.toNat = min d.length s.regs.rmax.toNat ∧ t.regs = { s.regs with rlen := t.regs.rlen }
          ∧ t.handle = s.handle ∧ Asked s t [.rx] rest) ∧
      (∀ rest, s.inputs = .answer .fail :: rest →
        ∃ t, exec .devRead s = .next t ∧ Committed s t .edev .readFailed ∧ t.regs = s.regs ∧ SameBytes s t
          ∧ t.handle = s.handle ∧ Asked s t [.rx] rest) ∧
      (NoAnswerNext s → ∃ t, exec .devRead s = .next t ∧ Waits s t .devRead .rx))

/-- R187; an answer that is next is taken in the same step (log 3). -/
def Obligations.DevWriteResult : Prop :=
  decode 0x00000052#32 = .ok (.devWrite false) ∧ decode 0x00000152#32 = .ok (.devWrite true) ∧
  ∀ (s : State) (arg0 : Bool),
    let d := if arg0 then s.memRead .obuf 0 s.regs.olen.toNat else s.input
    (arg0 = false → 65536 < s.regs.len.toNat → FailsOnly (.devWrite arg0) s .elen .none) ∧
    (arg0 = true ∨ s.regs.len.toNat ≤ 65536 →
      (s.handle = .closed → FailsOnly (.devWrite arg0) s .edev .notOpen) ∧
      (s.handle ≠ .closed →
        (∀ rest, s.inputs = .answer .ok :: rest →
          ∃ t, exec (.devWrite arg0) s = .next t ∧ Committed s t .none .none ∧ t.regs = s.regs ∧ SameBytes s t
            ∧ t.handle = s.handle ∧ Asked s t [.tx d] rest) ∧
        (∀ rest, s.inputs = .answer .fail :: rest →
          ∃ t, exec (.devWrite arg0) s = .next t ∧ Committed s t .edev .writeFailed ∧ t.regs = s.regs ∧ SameBytes s t
            ∧ t.handle = s.handle ∧ Asked s t [.tx d] rest) ∧
        (NoAnswerNext s → ∃ t, exec (.devWrite arg0) s = .next t ∧ Waits s t (.devWrite arg0) (.tx d))))

/-- R188; an answer that is next is taken in the same step (log 3). -/
def Obligations.DevCloseResult : Prop :=
  decode 0x00000053#32 = .ok .devClose ∧
  ∀ s : State,
    (s.handle = .closed →
      ∃ t, exec .devClose s = .next t ∧ Committed s t .none .none ∧ t.regs = s.regs ∧ SameBytes s t ∧ t.handle = .closed
        ∧ Untouched s t) ∧
    (s.handle ≠ .closed →
      (∀ rest, s.inputs = .answer .ok :: rest →
        ∃ t, exec .devClose s = .next t ∧ Committed s t .none .none ∧ t.regs = s.regs ∧ SameBytes s t
          ∧ t.handle = .closed ∧ Asked s t [.close] rest) ∧
      (NoAnswerNext s → ∃ t, exec .devClose s = .next t ∧ Waits s t .devClose .close))

/-- R200; an answer that is next is taken in the same step (log 3), and the results are written at the commit (log 17). -/
def Obligations.SendUdpResult : Prop :=
  decode 0x00000040#32 = .ok .sendUdp ∧
  ∀ s : State,
    let g := s.regs
    let ttl := g.ipcfg.extractLsb' 8 8
    let seg := udpSeg g.srcAddr g.dstAddr (g.ports.extractLsb' 16 16) (g.ports.extractLsb' 0 16) s.input
    let h0 := ipHdr0 s.ipId g.srcAddr g.dstAddr 0x11#8 (8 + g.len.toNat) ttl
    let d := ipHdr s.ipId g.srcAddr g.dstAddr 0x11#8 (8 + g.len.toNat) ttl ++ seg.bytes
    let result := checksum h0 ++ seg.result.extractLsb' 0 16
    (65536 < g.len.toNat → FailsOnly .sendUdp s .elen .none) ∧
    (65527 < g.len.toNat → g.len.toNat ≤ 65536 → FailsOnly .sendUdp s .esize .none) ∧
    (g.len.toNat ≤ 65527 →
      (s.handle = .closed →
        ∃ t, exec .sendUdp s = .next t ∧ Committed s t .edev .notOpen ∧ Emitted s t d (sum16 h0) result
          ∧ t.handle = s.handle ∧ Untouched s t) ∧
      (s.handle ≠ .closed →
        (∀ rest, s.inputs = .answer .ok :: rest →
          ∃ t, exec .sendUdp s = .next t ∧ Committed s t .none .none ∧ Emitted s t d (sum16 h0) result
            ∧ t.handle = s.handle ∧ Asked s t [.tx d] rest) ∧
        (∀ rest, s.inputs = .answer .fail :: rest →
          ∃ t, exec .sendUdp s = .next t ∧ Committed s t .edev .writeFailed ∧ Emitted s t d (sum16 h0) result
            ∧ t.handle = s.handle ∧ Asked s t [.tx d] rest) ∧
        (NoAnswerNext s → ∃ t, exec .sendUdp s = .next t ∧ Waits s t .sendUdp (.tx d))))

/-- R201: SEND_UDP's datagram is IP_ENC's header, with PLEN = 8 + LEN and PROTO = 17, before UDP_ENC's segment. -/
def Obligations.SendUdpIsComposition : Prop :=
  ∀ s w : State, s.regs.len.toNat ≤ 65527 → exec .sendUdp s = .next w → w.phase = .idle →
    ∃ u v, exec .udpEnc s = .next u ∧
      exec .ipEnc { u with regs := { u.regs with
        plen := BitVec.ofNat 32 (8 + s.regs.len.toNat), ipcfg := (s.regs.ipcfg &&& 0x0000FF00#32) ||| 0x00000011#32 } } = .next v ∧
      w.memRead .obuf 0 (28 + s.regs.len.toNat) =
        v.memRead .obuf 0 20 ++ u.memRead .obuf 0 (8 + s.regs.len.toNat) ∧
      (s.handle ≠ .closed → w.sent = s.sent ++ [.tx (v.memRead .obuf 0 20 ++ u.memRead .obuf 0 (8 + s.regs.len.toNat))])

/-- R210. -/
def Obligations.NopCommits : Prop :=
  decode 0x00000000#32 = .ok .nop ∧ decode 0x00000100#32 = .error .arg0NotAllowed ∧
  ∀ s : State, ∃ t, exec .nop s = .next t ∧ Committed s t .none .none ∧ t.regs = s.regs ∧ SameBytes s t
    ∧ t.handle = s.handle ∧ Untouched s t

/-! ### Frames and whole-machine rules -/

/-- R47: a command writes only the registers of its row. -/
def Obligations.CommandsWriteTheirRegisters : Prop :=
  ∀ (i : Instr) (s t : State) (r : Reg), exec i s = .next t → r ≠ .status → writesReg i r = false →
    t.readReg r = s.readReg r

/-- R47: no step but a host access or a reset writes an operand register that only the host writes. -/
def Obligations.HostRegistersWrittenByHost : Prop :=
  ∀ s t : State, step s = .next t → (∀ a rest, s.inputs ≠ .access a :: rest) → (∀ rest, s.inputs ≠ .reset :: rest) →
    ∀ r ∈ ([.len, .ports, .seq, .ackn, .tcpctl, .winurg, .ipcfg, .plen, .rmax, .devname0, .devname1, .devname2, .devname3]
      : List Reg), t.readReg r = s.readReg r

/-- R70: a command changes only bytes of `OBUF[0 : OLEN]` or `RBUF[0 : RLEN]`, and only the commands that write them do. -/
def Obligations.CommandsWriteTheirBytes : Prop :=
  ∀ (i : Instr) (s t : State) (a : Nat), exec i s = .next t → t.byte a ≠ s.byte a →
    (writesReg i .olen = true ∧ 0x20000 ≤ a ∧ a < 0x20000 + t.regs.olen.toNat) ∨
    (i = .devRead ∧ 0x40000 ≤ a ∧ a < 0x40000 + t.regs.rlen.toNat)

/-- R262, R224: a command that ends with an error leaves every register and byte as it was, but for SEND_UDP's device errors. -/
def Obligations.FailedCommandsKeepOutputs : Prop :=
  ∀ (i : Instr) (s t : State), exec i s = .next t → t.phase = .idle → t.status.err ≠ .none →
    ¬ (i = .sendUdp ∧ t.status.err = .edev) → t.regs = s.regs ∧ SameBytes s t

/-- R183: in a sound state HANDLE becomes OPEN only by DEV_OPEN, whose `Config` went out before; it becomes CLOSED only by
DEV_CLOSE, a DEV_OPEN that fails (R48) or reset. The step that changes it is a commit or a reset (R47, R72; log 20). -/
def Obligations.HandleChangesOnly : Prop :=
  ∀ s t : State, s.Inv → step s = .next t → t.handle ≠ s.handle →
    t.phase = .idle ∧
    (∀ name, t.handle = .opened name →
      s.runs .devOpen ∧ t.status.err = .none ∧ EnvReq.config name true true ∈ t.sent) ∧
    (t.handle = .closed → (s.runs .devOpen ∧ t.status.err = .edev) ∨ s.runs .devClose ∨ ∃ rest, s.inputs = .reset :: rest)

/-- R146, R8: `IP_ID` is a constant of the instance. -/
def Obligations.IdentificationConstant : Prop := ∀ s t : State, step s = .next t → t.ipId = s.ipId

/-- R180, R183: a request on the port is the block's own: the log only grows, and only a command or a reset adds to it. -/
def Obligations.RequestsOnlyByCommands : Prop :=
  ∀ s t : State, step s = .next t →
    ∃ new, t.sent = s.sent ++ new ∧ (new ≠ [] → s.phase ≠ .idle ∨ (s.handle ≠ .closed ∧ ∃ rest, s.inputs = .reset :: rest))

/-! ### Reset and the invariant -/

/-- R250: the reset input, in any state. -/
def Obligations.ResetEffect : Prop :=
  ∀ (s : State) (rest : List Event), s.inputs = .reset :: rest →
    ∃ t, step s = .next t
      ∧ t.readReg .status = 0x00000000#32 ∧ t.readReg .tcpctl = 0x00000005#32 ∧ t.readReg .ipcfg = 0x00004000#32
      ∧ t.readReg .rmax = 0x00010000#32
      ∧ (∀ r, r ≠ .tcpctl → r ≠ .ipcfg → r ≠ .rmax → t.readReg r = 0x00000000#32)
      ∧ t.phase = .idle ∧ t.handle = .closed ∧ t.inputs = rest
      ∧ ((s.handle ≠ .closed ∨ ∃ i req refused, s.phase = .waitEnv i req refused) → t.sent = s.sent ++ [.close])
      ∧ (¬ (s.handle ≠ .closed ∨ ∃ i req refused, s.phase = .waitEnv i req refused) → t.sent = s.sent)

/-- R23, R253: what `State.reset` holds. The buffers' bytes are not among it (R251). -/
def Obligations.ResetStateValues : Prop :=
  (∀ r, State.reset.readReg r =
    (match r with
      | .tcpctl => 0x00000005#32
      | .ipcfg => 0x00004000#32
      | .rmax => 0x00010000#32
      | _ => 0x00000000#32)) ∧
  State.reset.phase = .idle ∧ State.reset.handle = .closed

/-- The invariant holds after reset. -/
def Obligations.ResetStateSound : Prop := State.reset.Inv

/-- Every step keeps the invariant: OLEN ≤ OBUF_SIZE (R187), reserved bits read 0 (R24), DEVSUB is 0 unless ERR = 3 (R26), CMD names
the command under way (R25, R67), a command waits only with a request of its own (R95), and the rest of `State.Inv`. -/
def Obligations.StepKeepsInvariant : Prop := ∀ s t : State, s.Inv → step s = .next t → t.Inv
end

