-- ==== Sys2Proof/Laws/State.lean ====
section
/-! SUPPORT. What each update of the state leaves in each field: one lemma per field, true by unfolding. -/

namespace Sys2Proof.Machine

section
variable (s : State) (v : Word) (e : ErrCode) (d : DevSub) (b : Buf) (a : Nat) (bs : List Byte) (x : Artifact)
  (i : Instr) (req : EnvReq) (refused : Bool) (n : Nat)

@[simp] theorem State.accept_regs : (s.accept v).regs = { s.regs with cmd := v } := rfl
@[simp] theorem State.accept_status : (s.accept v).status = s.status.accepted := rfl
@[simp] theorem State.accept_phase : (s.accept v).phase = .busy v := rfl
@[simp] theorem State.accept_handle : (s.accept v).handle = s.handle := rfl
@[simp] theorem State.accept_mem : (s.accept v).mem = s.mem := rfl
@[simp] theorem State.accept_ipId : (s.accept v).ipId = s.ipId := rfl
@[simp] theorem State.accept_inputs : (s.accept v).inputs = s.inputs := rfl
@[simp] theorem State.accept_sent : (s.accept v).sent = s.sent := rfl
@[simp] theorem State.accept_resp : (s.accept v).resp = s.resp := rfl
@[simp] theorem State.accept_resets : (s.accept v).resets = s.resets := rfl
@[simp] theorem State.accept_draws : (s.accept v).draws = s.draws := rfl

@[simp] theorem State.commit_regs : (s.commit e d).regs = s.regs := rfl
@[simp] theorem State.commit_status : (s.commit e d).status = s.status.committed e d := rfl
@[simp] theorem State.commit_phase : (s.commit e d).phase = .idle := rfl
@[simp] theorem State.commit_handle : (s.commit e d).handle = s.handle := rfl
@[simp] theorem State.commit_mem : (s.commit e d).mem = s.mem := rfl
@[simp] theorem State.commit_ipId : (s.commit e d).ipId = s.ipId := rfl
@[simp] theorem State.commit_inputs : (s.commit e d).inputs = s.inputs := rfl
@[simp] theorem State.commit_sent : (s.commit e d).sent = s.sent := rfl
@[simp] theorem State.commit_resp : (s.commit e d).resp = s.resp := rfl
@[simp] theorem State.commit_resets : (s.commit e d).resets = s.resets := rfl
@[simp] theorem State.commit_draws : (s.commit e d).draws = s.draws := rfl

@[simp] theorem State.memWrite_regs : (s.memWrite b a bs).regs = s.regs := rfl
@[simp] theorem State.memWrite_status : (s.memWrite b a bs).status = s.status := rfl
@[simp] theorem State.memWrite_phase : (s.memWrite b a bs).phase = s.phase := rfl
@[simp] theorem State.memWrite_handle : (s.memWrite b a bs).handle = s.handle := rfl
@[simp] theorem State.memWrite_mem : (s.memWrite b a bs).mem = Memory.write s.mem (b.base + a) bs := rfl
@[simp] theorem State.memWrite_ipId : (s.memWrite b a bs).ipId = s.ipId := rfl
@[simp] theorem State.memWrite_inputs : (s.memWrite b a bs).inputs = s.inputs := rfl
@[simp] theorem State.memWrite_sent : (s.memWrite b a bs).sent = s.sent := rfl
@[simp] theorem State.memWrite_resp : (s.memWrite b a bs).resp = s.resp := rfl
@[simp] theorem State.memWrite_resets : (s.memWrite b a bs).resets = s.resets := rfl
@[simp] theorem State.memWrite_draws : (s.memWrite b a bs).draws = s.draws := rfl

@[simp] theorem State.setChecksum_regs :
    (s.setChecksum n v).regs = { s.regs with acc := BitVec.ofNat 32 n, result := v } := rfl
@[simp] theorem State.setChecksum_status : (s.setChecksum n v).status = s.status := rfl
@[simp] theorem State.setChecksum_phase : (s.setChecksum n v).phase = s.phase := rfl
@[simp] theorem State.setChecksum_handle : (s.setChecksum n v).handle = s.handle := rfl
@[simp] theorem State.setChecksum_mem : (s.setChecksum n v).mem = s.mem := rfl
@[simp] theorem State.setChecksum_ipId : (s.setChecksum n v).ipId = s.ipId := rfl
@[simp] theorem State.setChecksum_inputs : (s.setChecksum n v).inputs = s.inputs := rfl
@[simp] theorem State.setChecksum_sent : (s.setChecksum n v).sent = s.sent := rfl
@[simp] theorem State.setChecksum_resp : (s.setChecksum n v).resp = s.resp := rfl
@[simp] theorem State.setChecksum_resets : (s.setChecksum n v).resets = s.resets := rfl
@[simp] theorem State.setChecksum_draws : (s.setChecksum n v).draws = s.draws := rfl

@[simp] theorem State.emit_regs : (s.emit x).regs =
    { s.regs with olen := BitVec.ofNat 32 x.bytes.length, acc := BitVec.ofNat 32 x.sum, result := x.result } := rfl
@[simp] theorem State.emit_status : (s.emit x).status = s.status := rfl
@[simp] theorem State.emit_phase : (s.emit x).phase = s.phase := rfl
@[simp] theorem State.emit_handle : (s.emit x).handle = s.handle := rfl
@[simp] theorem State.emit_mem : (s.emit x).mem = Memory.write s.mem (Buf.obuf.base + 0) x.bytes := rfl
@[simp] theorem State.emit_ipId : (s.emit x).ipId = s.ipId := rfl
@[simp] theorem State.emit_inputs : (s.emit x).inputs = s.inputs := rfl
@[simp] theorem State.emit_sent : (s.emit x).sent = s.sent := rfl
@[simp] theorem State.emit_resp : (s.emit x).resp = s.resp := rfl
@[simp] theorem State.emit_resets : (s.emit x).resets = s.resets := rfl
@[simp] theorem State.emit_draws : (s.emit x).draws = s.draws := rfl

@[simp] theorem State.send_regs : (s.send i req refused).regs = s.regs := rfl
@[simp] theorem State.send_status : (s.send i req refused).status = s.status := rfl
@[simp] theorem State.send_phase : (s.send i req refused).phase = .waitEnv i req refused := rfl
@[simp] theorem State.send_handle : (s.send i req refused).handle = s.handle := rfl
@[simp] theorem State.send_mem : (s.send i req refused).mem = s.mem := rfl
@[simp] theorem State.send_ipId : (s.send i req refused).ipId = s.ipId := rfl
@[simp] theorem State.send_inputs : (s.send i req refused).inputs = s.inputs := rfl
@[simp] theorem State.send_sent : (s.send i req refused).sent = s.sent ++ [req] := rfl
@[simp] theorem State.send_resp : (s.send i req refused).resp = s.resp := rfl
@[simp] theorem State.send_resets : (s.send i req refused).resets = s.resets := rfl
@[simp] theorem State.send_draws : (s.send i req refused).draws = s.draws := rfl

@[simp] theorem resetTurn_regs : (resetTurn s).regs = Regs.reset := rfl
@[simp] theorem resetTurn_status : (resetTurn s).status = Status.reset := rfl
@[simp] theorem resetTurn_phase : (resetTurn s).phase = .idle := rfl
@[simp] theorem resetTurn_handle : (resetTurn s).handle = .closed := rfl
@[simp] theorem resetTurn_mem : (resetTurn s).mem = [] := rfl
@[simp] theorem resetTurn_ipId : (resetTurn s).ipId = s.ipId := rfl
@[simp] theorem resetTurn_inputs : (resetTurn s).inputs = s.inputs := rfl
@[simp] theorem resetTurn_resp : (resetTurn s).resp = s.resp := rfl
@[simp] theorem resetTurn_resets : (resetTurn s).resets = s.resets + 1 := rfl
@[simp] theorem resetTurn_draws : (resetTurn s).draws = s.draws := rfl

end

/-! ### A byte is what `mem` and `resets` say -/

theorem State.byte_congr {s t : State} (hm : t.mem = s.mem) (hr : t.resets = s.resets) (a : Nat) : t.byte a = s.byte a := by
  simp [State.byte, hm, hr]

@[simp] theorem State.byte_accept (s : State) (v : Word) (a : Nat) : (s.accept v).byte a = s.byte a := rfl
@[simp] theorem State.byte_commit (s : State) (e : ErrCode) (d : DevSub) (a : Nat) : (s.commit e d).byte a = s.byte a := rfl
@[simp] theorem State.byte_setChecksum (s : State) (n : Nat) (v : Word) (a : Nat) :
    (s.setChecksum n v).byte a = s.byte a := rfl
@[simp] theorem State.byte_emit (s : State) (x : Artifact) (a : Nat) :
    (s.emit x).byte a = (s.memWrite .obuf 0 x.bytes).byte a := rfl
@[simp] theorem State.byte_send (s : State) (i : Instr) (req : EnvReq) (refused : Bool) (a : Nat) :
    (s.send i req refused).byte a = s.byte a := rfl

end Sys2Proof.Machine
end

