-- ==== Sys2Proof/Laws/Bus.lean ====
section
/-! SUPPORT. What an address reaches, and what an accepted write reaches. -/

namespace Sys2Proof.Machine

/-- An address of a register file reaches the register at that offset. -/
theorem targetOf_registers {addr : BitVec 20} (h : addr.toNat < 0x100) :
    targetOf addr = (Reg.ofOffset addr.toNat).map .reg := by
  simp [targetOf, h]

theorem targetOf_ibuf {addr : BitVec 20} (h : 0x10000 ≤ addr.toNat) (h' : addr.toNat ≤ 0x1FFFF) :
    targetOf addr = some (.buf .ibuf (addr.toNat - 0x10000)) := by
  unfold targetOf
  rw [if_neg (by omega), if_pos (by simp; omega)]

theorem targetOf_obuf {addr : BitVec 20} (h : 0x20000 ≤ addr.toNat) (h' : addr.toNat ≤ 0x30013) :
    targetOf addr = some (.buf .obuf (addr.toNat - 0x20000)) := by
  unfold targetOf
  rw [if_neg (by omega), if_neg (by simp; omega), if_pos (by simp; omega)]

theorem targetOf_rbuf {addr : BitVec 20} (h : 0x40000 ≤ addr.toNat) (h' : addr.toNat ≤ 0x4FFFF) :
    targetOf addr = some (.buf .rbuf (addr.toNat - 0x40000)) := by
  unfold targetOf
  rw [if_neg (by omega), if_neg (by simp; omega), if_neg (by simp; omega), if_pos (by simp; omega)]

/-- A buffer target stands at its buffer's bus addresses. -/
theorem targetOf_buf {addr : BitVec 20} {b : Buf} {off : Nat} (h : targetOf addr = some (.buf b off)) :
    addr.toNat = b.base + off ∧ off < b.size := by
  unfold targetOf at h
  simp only at h
  split at h
  · simp at h
  all_goals
    repeat' split at h
    all_goals first
      | (simp only [Option.some.injEq, Target.buf.injEq] at h
         obtain ⟨rfl, rfl⟩ := h
         simp only [Buf.base, Buf.size, Config.ibufSize, Config.obufSize, Config.rbufSize] at *
         omega)
      | cases h

/-- A write that does not answer SLVERR reaches a register that is not read-only, or bytes of IBUF. -/
theorem write_reaches {w : Width} {addr : BitVec 20} {v : Word} {g : Target} (hs : (Access.write w addr v).slverr = false)
    (hg : targetOf addr = some g) :
    (∃ r, g = .reg r ∧ r.readOnly = false ∧ w = .w32) ∨
    (∃ off, g = .buf .ibuf off ∧ addr.toNat = 0x10000 + off ∧ off + (writtenBytes w v).length ≤ 65536) := by
  simp only [Access.slverr, hg, Bool.not_eq_false', Bool.and_eq_true] at hs
  obtain ⟨ha, hal⟩ := hs
  cases g with
  | reg r => exact .inl ⟨r, rfl, by simpa [Target.acceptsWrite] using ha⟩
  | buf b off =>
    obtain ⟨h1, h2⟩ := targetOf_buf hg
    cases b with
    | ibuf =>
      refine .inr ⟨off, rfl, h1, ?_⟩
      simp only [Buf.base, Buf.size, Config.ibufSize] at h1 h2
      cases w <;> simp [Target.acceptsWrite, alignedFor, writtenBytes, lanes] at ha hal ⊢ <;> omega
    | obuf => simp [Target.acceptsWrite] at ha
    | rbuf => simp [Target.acceptsWrite] at ha

end Sys2Proof.Machine
end

