-- ==== Sys2Proof/Laws/Memory.lean ====
section
/-! SUPPORT. The laws of the buffers' memory: what a read after a write gives, and that a write keeps the canonical form. -/

namespace Sys2Proof.Machine

@[simp] theorem Memory.read_nil (a : Nat) : Memory.read [] a = none := rfl

theorem Memory.read_cons (k : Nat) (b : Byte) (m : Memory) (a : Nat) :
    Memory.read ((k, b) :: m) a = if k = a then some b else Memory.read m a := rfl

theorem Memory.read_none_of_not_listed {m : Memory} {a : Nat} (h : ∀ c ∈ m, c.1 ≠ a) : Memory.read m a = none := by
  induction m with
  | nil => rfl
  | cons c m ih =>
    obtain ⟨k, b⟩ := c
    rw [Memory.read_cons, if_neg (h (k, b) (by simp)), ih fun c hc => h c (by simp [hc])]

theorem Memory.read_append (m n : Memory) (a : Nat) : Memory.read (m ++ n) a = (Memory.read m a).or (Memory.read n a) := by
  induction m with
  | nil => simp
  | cons c m ih =>
    obtain ⟨k, b⟩ := c
    simp only [List.cons_append, Memory.read_cons, ih]
    split <;> simp

theorem Memory.read_filter (m : Memory) (p : Nat → Bool) (a : Nat) :
    Memory.read (m.filter fun c => p c.1) a = if p a then Memory.read m a else none := by
  induction m with
  | nil => simp
  | cons c m ih =>
    obtain ⟨k, b⟩ := c
    by_cases hk : k = a
    · subst hk
      by_cases hp : p k <;> simp [Memory.read_cons, hp, ih]
    · by_cases hp : p k <;> simp [Memory.read_cons, hp, hk, ih]

theorem Memory.cells_address {a : Nat} {bs : List Byte} {c : Host.Cell} (h : c ∈ Memory.cells a bs) :
    a ≤ c.1 ∧ c.1 < a + bs.length := by
  induction bs generalizing a with
  | nil => simp [Memory.cells] at h
  | cons b bs ih =>
    rcases List.mem_cons.mp h with rfl | h
    · simp
    · have := ih h
      simp only [List.length_cons]
      omega

theorem Memory.cells_wf (a : Nat) (bs : List Byte) : Memory.wf (Memory.cells a bs) := by
  induction bs generalizing a with
  | nil => exact List.Pairwise.nil
  | cons b bs ih =>
    exact List.Pairwise.cons (fun c hc => by have := (Memory.cells_address hc).1; simp only; omega) (ih _)

theorem Memory.read_cells (a : Nat) (bs : List Byte) (k : Nat) :
    Memory.read (Memory.cells a bs) (a + k) = bs[k]? := by
  induction bs generalizing a k with
  | nil => simp [Memory.cells]
  | cons b bs ih =>
    cases k with
    | zero => simp [Memory.cells, Memory.read_cons]
    | succ k =>
      have := ih (a + 1) k
      rw [show a + 1 + k = a + (k + 1) by omega] at this
      simp [Memory.cells, Memory.read_cons, this]

/-- A written byte reads back. -/
theorem Memory.read_write_inside (m : Memory) (a : Nat) (bs : List Byte) {k : Nat} (hk : k < bs.length) :
    Memory.read (Memory.write m a bs) (a + k) = some bs[k] := by
  have h1 : Memory.read (m.filter fun c => decide (c.1 < a)) (a + k) = none :=
    Memory.read_none_of_not_listed fun c hc => by
      have := (List.mem_filter.mp hc).2
      simp only [decide_eq_true_eq] at this
      omega
  simp [Memory.write, Memory.read_append, h1, Memory.read_cells, hk]

/-- A write leaves every other address alone. -/
theorem Memory.read_write_outside (m : Memory) (a : Nat) (bs : List Byte) {x : Nat} (hx : x < a ∨ a + bs.length ≤ x) :
    Memory.read (Memory.write m a bs) x = Memory.read m x := by
  have h2 : Memory.read (Memory.cells a bs) x = none :=
    Memory.read_none_of_not_listed fun c hc => by have := Memory.cells_address hc; omega
  have h1 := Memory.read_filter m (fun k => decide (k < a)) x
  have h3 := Memory.read_filter m (fun k => decide (a + bs.length ≤ k)) x
  simp only [Memory.write, Memory.read_append, h1, h2, h3]
  rcases hx with hx | hx
  · have : ¬ a + bs.length ≤ x := by omega
    simp [hx, this]
  · have : ¬ x < a := by omega
    simp [hx, this]

/-- A write keeps the canonical form. -/
theorem Memory.write_wf {m : Memory} (h : Memory.wf m) (a : Nat) (bs : List Byte) : Memory.wf (Memory.write m a bs) := by
  unfold Memory.write Memory.wf
  refine List.pairwise_append.mpr ⟨List.pairwise_append.mpr ⟨h.filter _, Memory.cells_wf a bs, ?_⟩, h.filter _, ?_⟩
  · intro c hc d hd
    have hc := (List.mem_filter.mp hc).2
    have := Memory.cells_address hd
    simp only [decide_eq_true_eq] at hc
    omega
  · intro c hc d hd
    have hd := (List.mem_filter.mp hd).2
    simp only [decide_eq_true_eq] at hd
    rcases List.mem_append.mp hc with hc | hc
    · have hc := (List.mem_filter.mp hc).2
      simp only [decide_eq_true_eq] at hc
      omega
    · have := Memory.cells_address hc
      omega

/-- A write stores at the addresses written, and nowhere else. -/
theorem Memory.mem_write {m : Memory} {a : Nat} {bs : List Byte} {c : Host.Cell} (h : c ∈ Memory.write m a bs) :
    c ∈ m ∨ (a ≤ c.1 ∧ c.1 < a + bs.length) := by
  simp only [Memory.write, List.mem_append, List.mem_filter] at h
  rcases h with (h | h) | h
  · exact .inl h.1
  · exact .inr (Memory.cells_address h)
  · exact .inl h.1

/-- Two canonical memories with the same bytes are the same list. -/
theorem Memory.ext_of_wf {m n : Memory} (hm : Memory.wf m) (hn : Memory.wf n)
    (h : ∀ a, Memory.read m a = Memory.read n a) : m = n := by
  induction m generalizing n with
  | nil =>
    cases n with
    | nil => rfl
    | cons d n => obtain ⟨l, e⟩ := d; have := h l; simp [Memory.read_cons] at this
  | cons c m ih =>
    cases n with
    | nil => obtain ⟨k, b⟩ := c; have := h k; simp [Memory.read_cons] at this
    | cons d n =>
      obtain ⟨k, b⟩ := c
      obtain ⟨l, e⟩ := d
      have hm' := List.pairwise_cons.mp hm
      have hn' := List.pairwise_cons.mp hn
      have none_m : ∀ x, x ≤ k → Memory.read m x = none := fun x hx =>
        Memory.read_none_of_not_listed fun c hc => by have := hm'.1 c hc; simp only at this; omega
      have none_n : ∀ x, x ≤ l → Memory.read n x = none := fun x hx =>
        Memory.read_none_of_not_listed fun c hc => by have := hn'.1 c hc; simp only at this; omega
      have hkl : k = l := by
        rcases Nat.lt_trichotomy k l with hlt | heq | hgt
        · have := h k
          rw [Memory.read_cons, Memory.read_cons, if_pos rfl, if_neg (by omega), none_n k (by omega)] at this
          cases this
        · exact heq
        · have := h l
          rw [Memory.read_cons, Memory.read_cons, if_pos rfl, if_neg (by omega), none_m l (by omega)] at this
          cases this
      subst hkl
      have hb := h k
      rw [Memory.read_cons, Memory.read_cons, if_pos rfl, if_pos rfl] at hb
      cases hb
      congr 1
      refine ih hm'.2 hn'.2 fun a => ?_
      by_cases ha : k = a
      · rw [none_m a (by omega), none_n a (by omega)]
      · have := h a
        rwa [Memory.read_cons, Memory.read_cons, if_neg ha, if_neg ha] at this

/-! ### The same, for the state -/

theorem State.byte_memWrite_inside (s : State) (b : Buf) (v : List Byte) {k : Nat} (hk : k < v.length) :
    (s.memWrite b 0 v).byte (b.base + k) = v[k] := by
  simp [State.byte, State.memWrite, Memory.read_write_inside _ _ _ hk]

theorem State.byte_memWrite_outside (s : State) (b : Buf) (a : Nat) (v : List Byte) {x : Nat}
    (hx : x < b.base + a ∨ b.base + a + v.length ≤ x) : (s.memWrite b a v).byte x = s.byte x := by
  simp [State.byte, State.memWrite, Memory.read_write_outside _ _ _ hx]

@[simp] theorem State.length_memRead (s : State) (b : Buf) (a n : Nat) : (s.memRead b a n).length = n := by
  simp [State.memRead]

/-- What was written from the start of a buffer on reads back whole. -/
theorem State.memRead_memWrite (s : State) (b : Buf) (v : List Byte) : (s.memWrite b 0 v).memRead b 0 v.length = v := by
  refine List.ext_getElem (by simp) fun k h1 h2 => ?_
  have := State.byte_memWrite_inside s b v h2
  simpa [State.memRead] using this

/-- `MemRead` sees only the bytes of its range. -/
theorem State.memRead_congr {s t : State} {b : Buf} {a n : Nat}
    (h : ∀ x, b.base + a ≤ x → x < b.base + a + n → t.byte x = s.byte x) : t.memRead b a n = s.memRead b a n := by
  refine List.map_congr_left fun k hk => h _ (by omega) ?_
  have := List.mem_range.mp hk
  omega

end Sys2Proof.Machine
end

