-- ==== Sys2Proof/Laws/Ops.lean ====
section
/-! SUPPORT. One lemma per shared operation, saying once everything it can do, and the lengths of the byte sequences. -/

namespace Sys2Proof.Machine

/-! ### Ends of a command -/

@[simp] theorem raise_eq (e : ErrCode) (d : DevSub) (s : State) : raise e d s = .next (s.commit e d) := rfl

@[simp] theorem finish_eq (s : State) : finish s = .next (s.commit .none .none) := rfl

theorem State.committed_commit (s : State) (e : ErrCode) (d : DevSub) : Committed s (s.commit e d) e d := ⟨rfl, rfl⟩

/-! ### Input -/

theorem withInput_of_long {s : State} (k : List Byte → Result) (h : Config.ibufSize < s.regs.len.toNat) :
    withInput s k = .next (s.commit .elen .none) := by
  simp [withInput, h]

theorem withInput_of_fits {s : State} (k : List Byte → Result) (h : s.regs.len.toNat ≤ Config.ibufSize) :
    withInput s k = k (s.memRead .ibuf 0 s.regs.len.toNat) := by
  simp [withInput, Nat.not_lt.mpr h]

theorem withInput_next {s t : State} {k : List Byte → Result} (h : withInput s k = .next t) :
    (Config.ibufSize < s.regs.len.toNat ∧ t = s.commit .elen .none) ∨
    (s.regs.len.toNat ≤ Config.ibufSize ∧ k (s.memRead .ibuf 0 s.regs.len.toNat) = .next t) := by
  by_cases hl : Config.ibufSize < s.regs.len.toNat
  · rw [withInput_of_long k hl] at h
    cases h
    exact .inl ⟨hl, rfl⟩
  · rw [withInput_of_fits k (Nat.not_lt.mp hl)] at h
    exact .inr ⟨Nat.not_lt.mp hl, h⟩

theorem withUdpPayload_next {s t : State} {k : List Byte → Result} (h : withUdpPayload s k = .next t) :
    (Config.ibufSize < s.regs.len.toNat ∧ t = s.commit .elen .none) ∨
    (Config.udpMaxPayload < s.regs.len.toNat ∧ s.regs.len.toNat ≤ Config.ibufSize ∧ t = s.commit .esize .none) ∨
    (s.regs.len.toNat ≤ Config.udpMaxPayload ∧ k (s.memRead .ibuf 0 s.regs.len.toNat) = .next t) := by
  rcases withInput_next h with ⟨hl, rfl⟩ | ⟨hl, h⟩
  · exact .inl ⟨hl, rfl⟩
  · by_cases hu : Config.udpMaxPayload < s.regs.len.toNat
    · rw [if_pos hu] at h
      cases h
      exact .inr (.inl ⟨hu, hl, rfl⟩)
    · rw [if_neg hu] at h
      exact .inr (.inr ⟨Nat.not_lt.mp hu, h⟩)

/-! ### Requests and answers -/

theorem takeAnswer_next {req : EnvReq} {a : Answer} {k : Answer → State → Result} {s t : State} :
    takeAnswer req a k s = .next t ↔ req.allows a = true ∧ k a s = .next t := by
  unfold takeAnswer
  split <;> simp_all

theorem envRequest_of_answer {i : Instr} {req : EnvReq} {k : Answer → State → Result} {s : State} {refused : Bool}
    {a : Answer} {rest : List Event} (h : s.inputs = .answer a :: rest) :
    envRequest i req k s refused = takeAnswer req a k { s.send i req refused with inputs := rest } := by
  simp [envRequest, h]

theorem envRequest_of_noAnswer {i : Instr} {req : EnvReq} {k : Answer → State → Result} {s : State}
    {refused : Bool} (h : NoAnswerNext s) : envRequest i req k s refused = .next (s.send i req refused) := by
  unfold envRequest
  split
  · next a rest heq => exact absurd heq (h a rest)
  · rfl

/-- A request is answered by what happens next, or the command waits. -/
theorem envRequest_next {i : Instr} {req : EnvReq} {k : Answer → State → Result} {s t : State}
    {refused : Bool} (h : envRequest i req k s refused = .next t) :
    (∃ a rest, s.inputs = .answer a :: rest ∧ req.allows a = true ∧ k a { s.send i req refused with inputs := rest } = .next t) ∨
    (NoAnswerNext s ∧ t = s.send i req refused) := by
  unfold envRequest at h
  split at h
  · next a rest heq =>
    have := takeAnswer_next.mp h
    exact .inl ⟨a, rest, heq, this.1, this.2⟩
  · next hne =>
    cases h
    exact .inr ⟨hne, rfl⟩

/-- A datagram is transmitted and answered, or waits for its answer, or finds no open handle. -/
theorem transmit_next {arg0 : Bool} {d : List Byte} {s t : State} (h : transmit arg0 d s = .next t) :
    (s.handle.isOpen = true ∧ ∃ a rest, s.inputs = .answer a :: rest ∧ (EnvReq.tx d).allows a = true
      ∧ devWriteAnswered a { s.send (.devWrite arg0) (.tx d) with inputs := rest } = .next t) ∨
    (s.handle.isOpen = true ∧ NoAnswerNext s ∧ t = s.send (.devWrite arg0) (.tx d)) ∨
    (s.handle.isOpen = false ∧ t = s.commit .edev .notOpen) := by
  unfold transmit at h
  split at h
  · next ho =>
    rcases envRequest_next h with ⟨a, rest, hi, ha, hk⟩ | ⟨hn, rfl⟩
    · exact .inl ⟨ho, a, rest, hi, ha, hk⟩
    · exact .inr (.inl ⟨ho, hn, rfl⟩)
  · next ho =>
    cases h
    exact .inr (.inr ⟨by simpa using ho, rfl⟩)

/-! ### Lengths -/

@[simp] theorem length_be16 (v : Half) : (be16 v).length = 2 := rfl
@[simp] theorem length_be32 (v : Word) : (be32 v).length = 4 := rfl
@[simp] theorem length_lanes (v : Word) : (lanes v).length = 4 := rfl
@[simp] theorem Regs.length_deviceName (g : Regs) : g.deviceName.length = 16 := rfl
@[simp] theorem length_ipHdr0 (id : Half) (src dst : Word) (proto : Byte) (plen : Nat) (ttl : Byte) :
    (ipHdr0 id src dst proto plen ttl).length = 20 := rfl
@[simp] theorem length_ipHdr (id : Half) (src dst : Word) (proto : Byte) (plen : Nat) (ttl : Byte) :
    (ipHdr id src dst proto plen ttl).length = 20 := rfl
@[simp] theorem length_pseudo (src dst : Word) (proto : Byte) (n : Nat) : (pseudo src dst proto n).length = 12 := rfl
@[simp] theorem length_tcpHdr0 (sp dp : Half) (seq ack : Word) (doff : BitVec 4) (fl : BitVec 6) (win urg : Half) :
    (tcpHdr0 sp dp seq ack doff fl win urg).length = 20 := rfl
@[simp] theorem length_udpHdr0 (sp dp : Half) (n : Nat) : (udpHdr0 sp dp n).length = 8 := rfl

theorem length_slice (b : List Byte) {i j : Nat} (hj : j ≤ b.length) : (slice b i j).length = j - i := by
  simp [slice, Nat.min_eq_left hj]

@[simp] theorem Regs.length_tcpArtifact (g : Regs) (p : List Byte) : (g.tcpArtifact p).bytes.length = 20 + p.length := by
  simp [Regs.tcpArtifact, Regs.tcpHdr0, slice]
  omega

@[simp] theorem length_udpSeg (src dst : Word) (sp dp : Half) (p : List Byte) :
    (udpSeg src dst sp dp p).bytes.length = 8 + p.length := by
  simp [udpSeg, slice]
  omega

@[simp] theorem Regs.length_udpArtifact (g : Regs) (p : List Byte) : (g.udpArtifact p).bytes.length = 8 + p.length := by
  simp [Regs.udpArtifact]

@[simp] theorem State.length_ipArtifact (s : State) : s.ipArtifact.bytes.length = 20 := rfl

@[simp] theorem State.length_udpDatagram (s : State) (p : List Byte) : (s.udpDatagram p).bytes.length = 28 + p.length := by
  simp [State.udpDatagram]
  omega

/-! ### What `emit` leaves in OBUF -/

theorem State.memRead_emit (s : State) (x : Artifact) : (s.emit x).memRead .obuf 0 x.bytes.length = x.bytes :=
  State.memRead_memWrite s .obuf x.bytes

theorem State.byte_emit_outside (s : State) (x : Artifact) :
    SameBytesOutside s (s.emit x) Buf.obuf.base x.bytes.length := fun _ ha =>
  State.byte_memWrite_outside s .obuf 0 x.bytes (by simpa using ha)

end Sys2Proof.Machine
end

