-- ==== Sys2Proof/Laws/PerInstr.lean ====
section
/-! SUPPORT. The family `Legal`: a command is well formed and its command word is legal by every item of R92. -/

namespace Sys2Proof.Laws.Legal

/-- What the family says of one command. -/
def Statement (i : Instr) : Prop :=
  i.wellFormed = true ∧ (CommandWord.ofWord (encode i)).reservedClear = true
    ∧ (CommandWord.ofWord (encode i)).opcodeListed = true ∧ (CommandWord.ofWord (encode i)).arg0Allowed = true

theorem nop : Statement .nop := by unfold Statement; decide
theorem csum : Statement .csum := by unfold Statement; decide
theorem csumUdp : Statement .csumUdp := by unfold Statement; decide
theorem parseSrc : Statement .parseSrc := by unfold Statement; decide
theorem parseDst : Statement .parseDst := by unfold Statement; decide
theorem ipEnc : Statement .ipEnc := by unfold Statement; decide
theorem tcpEnc : Statement .tcpEnc := by unfold Statement; decide
theorem udpEnc : Statement .udpEnc := by unfold Statement; decide
theorem sendUdp : Statement .sendUdp := by unfold Statement; decide
theorem devOpen : Statement .devOpen := by unfold Statement; decide
theorem devRead : Statement .devRead := by unfold Statement; decide
theorem devWrite (arg0 : Bool) : Statement (.devWrite arg0) := by cases arg0 <;> (unfold Statement; decide)
theorem devClose : Statement .devClose := by unfold Statement; decide

end Sys2Proof.Laws.Legal
end

