-- ==== Sys2Proof/Laws/Step.lean ====
section
/-! SUPPORT. What a step can be: one equation per kind of input, and the inversion of `step`, `hostTurn` and the turns. -/

namespace Sys2Proof.Machine

theorem step_of_nil {s : State} (h : s.inputs = []) : step s = engineTurn s := by simp [step, h]

theorem step_of_engine {s : State} {rest : List Event} (h : s.inputs = .engine :: rest) :
    step s = engineTurn { s with inputs := rest } := by simp [step, h]

theorem step_of_access {s : State} {a : Access} {rest : List Event} (h : s.inputs = .access a :: rest) :
    step s = hostTurn a { s with inputs := rest } := by simp [step, h]

theorem step_of_answer {s : State} {a : Answer} {rest : List Event} (h : s.inputs = .answer a :: rest) :
    step s = environmentTurn a { s with inputs := rest } := by simp [step, h]

theorem step_of_reset {s : State} {rest : List Event} (h : s.inputs = .reset :: rest) :
    step s = .next (resetTurn { s with inputs := rest }) := by simp [step, h]

/-- A step is a turn of the engine, of the host or of the environment, or a reset. -/
theorem step_next {s t : State} (h : step s = .next t) :
    (s.inputs = [] ∧ engineTurn s = .next t) ∨
    (∃ rest, s.inputs = .engine :: rest ∧ engineTurn { s with inputs := rest } = .next t) ∨
    (∃ a rest, s.inputs = .access a :: rest ∧ hostTurn a { s with inputs := rest } = .next t) ∨
    (∃ a rest, s.inputs = .answer a :: rest ∧ environmentTurn a { s with inputs := rest } = .next t) ∨
    (∃ rest, s.inputs = .reset :: rest ∧ t = resetTurn { s with inputs := rest }) := by
  unfold step at h
  split at h
  · next heq => exact .inl ⟨heq, h⟩
  · next rest heq => exact .inr (.inl ⟨rest, heq, h⟩)
  · next a rest heq => exact .inr (.inr (.inl ⟨a, rest, heq, h⟩))
  · next a rest heq => exact .inr (.inr (.inr (.inl ⟨a, rest, heq, h⟩)))
  · next rest heq => cases h; exact .inr (.inr (.inr (.inr ⟨rest, heq, rfl⟩)))

/-- The engine's turn executes the accepted command, raises EILL, or does nothing. -/
theorem engineTurn_next {s t : State} (h : engineTurn s = .next t) :
    (∃ v i, s.phase = .busy v ∧ decode v = .ok i ∧ exec i s = .next t) ∨
    (∃ v x, s.phase = .busy v ∧ decode v = .error x ∧ t = s.commit .eill .none) ∨
    ((∀ v, s.phase ≠ .busy v) ∧ t = s) := by
  unfold engineTurn at h
  split at h
  · next v hp =>
    split at h
    · next i hd => exact .inl ⟨v, i, hp, hd, h⟩
    · next x hd => cases h; exact .inr (.inl ⟨v, x, hp, hd, rfl⟩)
  · next hp => cases h; exact .inr (.inr ⟨by simp [hp], rfl⟩)
  · next hp => cases h; exact .inr (.inr ⟨by simp [hp], rfl⟩)

/-- The environment's turn answers the outstanding request. -/
theorem environmentTurn_next {a : Answer} {s t : State} (h : environmentTurn a s = .next t) :
    ∃ i req refused, s.phase = .waitEnv i req refused ∧ req.allows a = true ∧ resume i req refused a s = .next t := by
  unfold environmentTurn at h
  split at h
  · next i req refused hp =>
    have := takeAnswer_next.mp h
    exact ⟨i, req, refused, hp, this.1, this.2⟩
  · cases h
  · cases h

/-- A host access that does not answer SLVERR reads or writes what stands at its address. -/
theorem hostTurn_next {a : Access} {s t : State} (h : hostTurn a s = .next t) :
    a.slverr = false ∧
    ((∃ w addr g, a = .read w addr ∧ targetOf addr = some g ∧ t = s.busRead w g) ∨
     (∃ w addr v g, a = .write w addr v ∧ targetOf addr = some g ∧ t = s.busWrite w v g)) := by
  unfold hostTurn at h
  split at h
  · cases h
  · next hs =>
    refine ⟨by simpa using hs, ?_⟩
    split at h
    · next w addr =>
      split at h
      · next g hg => cases h; exact .inl ⟨w, addr, g, rfl, hg, rfl⟩
      · cases h
    · next w addr v =>
      split at h
      · next g hg => cases h; exact .inr ⟨w, addr, v, g, rfl, hg, rfl⟩
      · cases h

end Sys2Proof.Machine
end

