-- ==== Sys2Proof/Tests/Slice0.lean ====
section
/-! SUPPORT. The model's own tests: expected values from the encodings of R90-R92 and the vectors of 95_test_vectors.md (named
V-…), and for each statement with hypotheses a witness that meets them. -/

namespace Sys2Proof.Tests

open Sys2Proof Sys2Proof.Machine

/-! ### Well-formedness: each check refuses an ill-formed word (R92) -/

def bad : CommandWord := { rsvd := 1#23, arg0 := true, opc := 0x03#8 }

theorem test_reserved_bit_refused : bad.reservedClear = false ∧ decode 0x00000200#32 = .error .reservedBits := by decide

theorem test_unlisted_opcode_refused : bad.opcodeListed = false ∧ decode 0x00000003#32 = .error .unlistedOpcode := by decide

theorem test_arg0_refused : bad.arg0Allowed = false ∧ decode 0x00000101#32 = .error .arg0NotAllowed := by decide

theorem test_ill_formed_word_refused : bad.wellFormed = false := by decide

set_option maxRecDepth 4000 in
/-- The decoder accepts an opcode exactly when R92 lists it, with ARG0 clear and with ARG0 set. -/
theorem test_legality_of_all_opcodes :
    ∀ n < 256, ∀ a : Bool,
      (decode (CommandWord.toWord { rsvd := 0#23, arg0 := a, opc := BitVec.ofNat 8 n })).isOk
        = CommandWord.wellFormed { rsvd := 0#23, arg0 := a, opc := BitVec.ofNat 8 n } := by decide

/-! ### Decoding: words written out from R90 and R91, [31:9] RSVD, [8] ARG0, [7:0] OPC -/

theorem test_decode_nop : decode 0b00000000000000000000000_0_00000000#32 = .ok .nop := by decide
theorem test_decode_csum : decode 0b00000000000000000000000_0_00000001#32 = .ok .csum := by decide
theorem test_decode_csumUdp : decode 0b00000000000000000000000_0_00000010#32 = .ok .csumUdp := by decide
theorem test_decode_parseSrc : decode 0b00000000000000000000000_0_00001000#32 = .ok .parseSrc := by decide
theorem test_decode_parseDst : decode 0b00000000000000000000000_0_00001001#32 = .ok .parseDst := by decide
theorem test_decode_ipEnc : decode 0b00000000000000000000000_0_00010000#32 = .ok .ipEnc := by decide
theorem test_decode_tcpEnc : decode 0b00000000000000000000000_0_00100000#32 = .ok .tcpEnc := by decide
theorem test_decode_udpEnc : decode 0b00000000000000000000000_0_00110000#32 = .ok .udpEnc := by decide
theorem test_decode_sendUdp : decode 0b00000000000000000000000_0_01000000#32 = .ok .sendUdp := by decide
theorem test_decode_devOpen : decode 0b00000000000000000000000_0_01010000#32 = .ok .devOpen := by decide
theorem test_decode_devRead : decode 0b00000000000000000000000_0_01010001#32 = .ok .devRead := by decide
theorem test_decode_devWrite_ibuf : decode 0b00000000000000000000000_0_01010010#32 = .ok (.devWrite false) := by decide
theorem test_decode_devWrite_obuf : decode 0b00000000000000000000000_1_01010010#32 = .ok (.devWrite true) := by decide
theorem test_decode_devClose : decode 0b00000000000000000000000_0_01010011#32 = .ok .devClose := by decide

/-- The table's numbering of the bits: `DEV_WRITE` with ARG0 set, and nothing longer than one word. -/
theorem test_decodeTableWord : decodeTableWord 32 0x152 = some (.devWrite true) ∧ decodeTableWord 64 0 = none := by decide

/-- `encode` gives the words of R91 back. -/
theorem test_encode :
    [Instr.nop, .csum, .csumUdp, .parseSrc, .parseDst, .ipEnc, .tcpEnc, .udpEnc, .sendUdp, .devOpen, .devRead, .devWrite false,
      .devWrite true, .devClose].map encode
    = [0x000#32, 0x001#32, 0x002#32, 0x008#32, 0x009#32, 0x010#32, 0x020#32, 0x030#32, 0x040#32, 0x050#32, 0x051#32, 0x052#32,
      0x152#32, 0x053#32] := by decide

/-! ### States for the tests -/

/-- Whether an outcome is a next state with this property. -/
def gives (r : Result) (p : State → Bool) : Bool :=
  match r with
  | .next t => p t
  | .fault _ => false
  | .refused _ => false

/-- Whether an outcome is this fault. -/
def stopsWith (r : Result) (f : Fault) : Bool :=
  match r with
  | .next _ => false
  | .fault g => g == f
  | .refused _ => false

/-- The state after reset of an instance with `IP_ID` = 0, the value that 95_test_vectors.md takes. -/
def boot : State := { State.reset with ipId := 0#16 }

/-- `boot` with these bytes at the start of IBUF and their number in LEN. -/
def withBytes (bs : List Byte) : State :=
  let s := boot.memWrite .ibuf 0 bs
  { s with regs := { s.regs with len := BitVec.ofNat 32 bs.length } }

/-- `boot` with this LEN. -/
def withLen (n : Nat) : State := { boot with regs := { boot.regs with len := BitVec.ofNat 32 n } }

/-- "tun0" and 12 NUL bytes, the name of `DEVNAME0` = 0x306E7574 (V-D1). -/
def tun0 : List Byte := [0x74#8, 0x75#8, 0x6E#8, 0x30#8] ++ List.replicate 12 0x00#8

/-- The same state with the handle OPEN and these answers next. -/
def opened (s : State) (answers : List Answer) : State :=
  { s with handle := .opened tun0, inputs := answers.map .answer }

/-- 10.0.0.1 to 10.0.0.2 with these ports. -/
def addressed (s : State) (ports : Word) : State :=
  { s with regs := { s.regs with srcAddr := 0x0A000001#32, dstAddr := 0x0A000002#32, ports := ports } }

/-- The operands of IP_ENC. -/
def ipHeader (src dst ipcfg plen : Word) : State :=
  { boot with regs := { boot.regs with srcAddr := src, dstAddr := dst, ipcfg := ipcfg, plen := plen } }

/-- "test" from 10.0.0.1:1234 to 10.0.0.2:53, the inputs of V-U1 and V-F1. -/
def testMessage : State := addressed (withBytes [0x74#8, 0x65#8, 0x73#8, 0x74#8]) 0x04D20035#32

/-- The datagram of V-F1. -/
def testDatagram : List Byte :=
  [0x45#8, 0x00#8, 0x00#8, 0x20#8, 0x00#8, 0x00#8, 0x40#8, 0x00#8, 0x40#8, 0x11#8, 0x26#8, 0xCB#8, 0x0A#8, 0x00#8, 0x00#8,
   0x01#8, 0x0A#8, 0x00#8, 0x00#8, 0x02#8]
  ++ [0x04#8, 0xD2#8, 0x00#8, 0x35#8, 0x00#8, 0x0C#8, 0xFE#8, 0xF2#8, 0x74#8, 0x65#8, 0x73#8, 0x74#8]

/-! ### Every row of the opcode table runs as the first command after reset -/

theorem test_every_row_runs :
    ∀ w ∈ [0x000, 0x001, 0x002, 0x008, 0x009, 0x010, 0x020, 0x030, 0x040, 0x050, 0x051, 0x052, 0x152, 0x053],
      gives (step (State.reset.withFetchWord 32 w)) (fun _ => true) = true := by decide

/-! ### Checksums -/

/-- V-C6. -/
theorem test_csum_fold : gives (exec .csum (withBytes [0x00#8, 0x01#8, 0xF2#8, 0x03#8, 0xF4#8, 0xF5#8, 0xF6#8, 0xF7#8]))
    (fun t => t.regs.acc == 0x0002DDF0#32 && t.regs.result == 0x0000220D#32) = true := by decide

/-- V-C13: ELEN, and RESULT is unchanged. -/
theorem test_csum_too_long : gives (exec .csum (withLen 65537))
    (fun t => t.statusWord == 0x00000042#32 && t.regs.result == 0x00000000#32) = true := by decide

/-- V-C4: the substitution. -/
theorem test_csumUdp_substitution : gives (exec .csumUdp (withBytes [0xFF#8, 0xFF#8]))
    (fun t => t.regs.acc == 0x0000FFFF#32 && t.regs.result == 0x0000FFFF#32) = true := by decide

/-- V-C7: an odd last byte. -/
theorem test_csumUdp_odd : gives (exec .csumUdp (withBytes [0x12#8, 0x34#8, 0x56#8]))
    (fun t => t.regs.acc == 0x00006834#32 && t.regs.result == 0x000097CB#32) = true := by decide

/-! ### Addresses -/

/-- V-P4, `10.0.0.1`. -/
theorem test_parseSrc : gives (exec .parseSrc (withBytes [0x31#8, 0x30#8, 0x2E#8, 0x30#8, 0x2E#8, 0x30#8, 0x2E#8, 0x31#8]))
    (fun t => t.regs.srcAddr == 0x0A000001#32 && t.regs.dstAddr == 0x00000000#32) = true := by decide

/-- V-P7, `01.2.3.4`: a leading zero. -/
theorem test_parseSrc_leading_zero :
    gives (exec .parseSrc (withBytes [0x30#8, 0x31#8, 0x2E#8, 0x32#8, 0x2E#8, 0x33#8, 0x2E#8, 0x34#8]))
      (fun t => t.statusWord == 0x00000012#32 && t.regs.srcAddr == 0x00000000#32) = true := by decide

/-- V-P3, `255.255.255.255`. -/
theorem test_parseDst : gives (exec .parseDst (withBytes [0x32#8, 0x35#8, 0x35#8, 0x2E#8, 0x32#8, 0x35#8, 0x35#8, 0x2E#8,
      0x32#8, 0x35#8, 0x35#8, 0x2E#8, 0x32#8, 0x35#8, 0x35#8]))
    (fun t => t.regs.dstAddr == 0xFFFFFFFF#32 && t.regs.srcAddr == 0x00000000#32) = true := by decide

/-- V-P6, `256.0.0.1`. -/
theorem test_parseDst_too_large :
    gives (exec .parseDst (withBytes [0x32#8, 0x35#8, 0x36#8, 0x2E#8, 0x30#8, 0x2E#8, 0x30#8, 0x2E#8, 0x31#8]))
      (fun t => t.statusWord == 0x00000012#32 && t.regs.dstAddr == 0x00000000#32) = true := by decide

/-! ### Encoders -/

/-- V-I1. -/
theorem test_ipEnc : gives (exec .ipEnc (ipHeader 0xC0A80001#32 0xC0A800C7#32 0x00004011#32 95#32))
    (fun t => t.memRead .obuf 0 20 == [0x45#8, 0x00#8, 0x00#8, 0x73#8, 0x00#8, 0x00#8, 0x40#8, 0x00#8, 0x40#8, 0x11#8, 0xB8#8,
        0x61#8, 0xC0#8, 0xA8#8, 0x00#8, 0x01#8, 0xC0#8, 0xA8#8, 0x00#8, 0xC7#8]
      && t.regs.result == 0x0000B861#32 && t.regs.acc == 0x0002479C#32 && t.regs.olen == 20#32) = true := by decide

/-- V-I5: the total length wraps. -/
theorem test_ipEnc_wraps : gives (exec .ipEnc (ipHeader 0x0A000001#32 0x0A000002#32 0x00004001#32 65516#32))
    (fun t => t.memRead .obuf 2 2 == [0x00#8, 0x00#8] && t.regs.result == 0x000026FB#32 && t.regs.acc == 0x0000D904#32)
    = true := by decide

/-- V-T2. -/
theorem test_tcpEnc :
    let s := addressed (withBytes [0x61#8, 0x62#8, 0x63#8]) 0x04D20050#32
    let g := { s.regs with seq := 1#32, ackn := 2#32, tcpctl := 0x00001805#32, winurg := 0xFFFF0000#32 }
    gives (exec .tcpEnc { s with regs := g })
      (fun t => t.memRead .obuf 0 23 == [0x04#8, 0xD2#8, 0x00#8, 0x50#8, 0x00#8, 0x00#8, 0x00#8, 0x01#8, 0x00#8, 0x00#8, 0x00#8,
          0x02#8, 0x50#8, 0x18#8, 0xFF#8, 0xFF#8, 0xD2#8, 0x3F#8, 0x00#8, 0x00#8, 0x61#8, 0x62#8, 0x63#8]
        && t.regs.result == 0x0000D23F#32 && t.regs.acc == 0x00022DBE#32 && t.regs.olen == 23#32) = true := by decide

/-- V-T4: TCPCTL written with ones. -/
theorem test_tcpEnc_reserved_bits : gives (exec .tcpEnc { boot with regs := boot.regs.hostWrite .tcpctl 0xFFFFFFFF#32 })
    (fun t => t.memRead .obuf 12 2 == [0xF0#8, 0x3F#8] && t.regs.result == 0x00000FA6#32 && t.regs.acc == 0x0000F059#32)
    = true := by decide

/-- V-U1. -/
theorem test_udpEnc : gives (exec .udpEnc testMessage)
    (fun t => t.memRead .obuf 0 12 == testDatagram.drop 20
      && t.regs.result == 0x0000FEF2#32 && t.regs.acc == 0x0001010C#32 && t.regs.olen == 12#32) = true := by decide

/-- V-U4: the substitution. -/
theorem test_udpEnc_substitution : gives (exec .udpEnc (withBytes [0xFF#8, 0xDA#8]))
    (fun t => t.memRead .obuf 0 10 == [0x00#8, 0x00#8, 0x00#8, 0x00#8, 0x00#8, 0x0A#8, 0xFF#8, 0xFF#8, 0xFF#8, 0xDA#8]
      && t.regs.result == 0x0000FFFF#32 && t.regs.acc == 0x0000FFFF#32) = true := by decide

/-- V-U6 and V-F6: one byte above the limit. -/
theorem test_udp_limit :
    gives (exec .udpEnc (withLen 65528)) (fun t => t.statusWord == 0x00000022#32 && t.regs.olen == 0#32)
      && gives (exec .sendUdp (withLen 65528)) (fun t => t.statusWord == 0x00000022#32 && t.sent == []) = true := by decide

/-- V-F1. -/
theorem test_sendUdp : gives (exec .sendUdp (opened testMessage [.ok]))
    (fun t => t.memRead .obuf 0 32 == testDatagram && t.sent == [.tx testDatagram] && t.statusWord == 0x0000000A#32
      && t.regs.result == 0x26CBFEF2#32 && t.regs.acc == 0x0000D934#32 && t.regs.olen == 32#32) = true := by decide

/-- V-F4: the datagram stays in OBUF though the handle is CLOSED. -/
theorem test_sendUdp_closed : gives (exec .sendUdp testMessage)
    (fun t => t.memRead .obuf 0 32 == testDatagram && t.sent == [] && t.statusWord == 0x00000532#32
      && t.regs.result == 0x26CBFEF2#32 && t.regs.olen == 32#32) = true := by decide

/-! ### The device -/

/-- V-D1. -/
theorem test_devOpen : gives (exec .devOpen { boot with
      regs := boot.regs.hostWrite .devname0 0x306E7574#32, inputs := [.answer .ok, .answer .ok] })
    (fun t => t.handle == .opened tun0 && t.sent == [.openDev tun0, .config tun0 true true] && t.statusWord == 0x0000000A#32)
    = true := by decide

/-- V-D3, and V-D4: a failed reopening leaves the handle CLOSED, at the commit only (R48, R72). -/
theorem test_devOpen_fails :
    gives (exec .devOpen { boot with inputs := [.answer .ok, .answer .fail, .answer .ok] })
      (fun t => t.handle == .closed && t.sent.getLast? == some .close && t.statusWord == 0x00000232#32)
    && gives (exec .devOpen (opened boot [.ok])) (fun t => t.statusWord == 0x00000009#32)
    && gives (exec .devOpen (opened boot [.ok, .fail])) (fun t => t.handle == .closed && t.statusWord == 0x00000132#32)
    = true := by decide

/-- V-D5: RMAX = 4. -/
theorem test_devRead :
    let s := opened boot [.data (testDatagram.take 28)]
    gives (exec .devRead { s with regs := { s.regs with rmax := 4#32 } })
      (fun t => t.memRead .rbuf 0 4 == [0x45#8, 0x00#8, 0x00#8, 0x20#8] && t.regs.rlen == 4#32
        && t.statusWord == 0x0000000A#32 && t.mem.length == 4) = true := by decide

/-- V-D9. -/
theorem test_devRead_fails : gives (exec .devRead (opened boot [.fail]))
    (fun t => t.statusWord == 0x0000033A#32 && t.sent == [.rx] && t.regs.rlen == 0#32) = true := by decide

/-- V-D10, with 12 bytes: OBUF is sent, not IBUF. -/
theorem test_devWrite_obuf :
    let s := opened (testMessage.memWrite .obuf 0 (testDatagram.drop 20)) [.ok]
    gives (exec (.devWrite true) { s with regs := { s.regs with olen := 12#32 } })
      (fun t => t.sent == [.tx (testDatagram.drop 20)] && t.statusWord == 0x0000000A#32) = true := by decide

/-- V-D12. -/
theorem test_devWrite_fails : gives (exec (.devWrite false) (opened (withBytes [0xDE#8, 0xAD#8]) [.fail]))
    (fun t => t.sent == [.tx [0xDE#8, 0xAD#8]] && t.statusWord == 0x0000043A#32) = true := by decide

/-- V-D13. -/
theorem test_devClose : gives (exec .devClose (opened boot [.ok]))
    (fun t => t.handle == .closed && t.sent == [.close] && t.statusWord == 0x00000002#32) = true := by decide

/-- V-D14. -/
theorem test_devClose_closed : gives (exec .devClose boot)
    (fun t => t.sent == [] && t.statusWord == 0x00000002#32) = true := by decide

/-- V-E4. -/
theorem test_nop : gives (exec .nop boot) (fun t => t.statusWord == 0x00000002#32 && t.regs == boot.regs) = true := by decide

/-! ### Steps and the bus -/

/-- V-E1: the word is accepted, then EILL. -/
theorem test_illegal_word : gives (step (boot.withFetchWord 32 0x003))
    (fun t => t.statusWord == 0x00000052#32 && t.regs.cmd == 0x00000003#32) = true := by decide

/-- V-E5, V-E6, V-E7, V-E9. -/
theorem test_slverr :
    ∀ a ∈ [Access.write .w8 0x00000#20 1#32, .write .w32 0x0000C#20 5#32, .write .w32 0x10002#20 0#32, .read .w32 0x30014#20],
      stopsWith (step { boot with inputs := [.access a] }) .slverr = true := by decide

/-- V-E8, with the last four bytes of OBUF. -/
theorem test_read_end_of_obuf :
    gives (step { boot.memWrite .obuf 65552 [0xDE#8, 0xAD#8, 0xBE#8, 0xEF#8] with
        inputs := [.access (.read .w32 0x30010#20)] })
      (fun t => t.resp == .data 0xEFBEADDE#32) = true := by decide

/-- V-E10. -/
theorem test_write_while_busy :
    gives (step { boot with phase := .busy 0x51#32, inputs := [.access (.write .w32 0x00008#20 5#32)] })
      (fun t => t.regs.len == 0#32 && t.statusWord == 0x00000005#32 && t.resp == .okay) = true := by decide

/-- V-E11. -/
theorem test_status_write :
    let f : Status := { done := true, wign := true, err := .elen, devsub := .none }
    gives (step { boot with status := f, inputs := [.access (.write .w32 0x00004#20 6#32)] })
      (fun t => t.statusWord == 0x00000040#32) = true := by decide

/-- V-E12. -/
theorem test_tcpctl_write : gives (step { boot with inputs := [.access (.write .w32 0x0002C#20 0x0000001F#32)] })
    (fun t => t.readReg .tcpctl == 0x0000000F#32) = true := by decide

/-- V-E13. -/
theorem test_input_lanes : gives (step { boot with inputs := [.access (.write .w32 0x10000#20 0xEFBEADDE#32)] })
    (fun t => t.memRead .ibuf 0 4 == [0xDE#8, 0xAD#8, 0xBE#8, 0xEF#8]) = true := by decide

/-- P5, steps 3 and 4. -/
theorem test_wait_and_reset :
    let s := { opened boot [] with phase := .waitEnv .devRead .rx false, status := { boot.status with wign := true }, sent := [.rx] }
    s.statusWord = 0x0000000D#32 ∧
    gives (step { s with inputs := [.reset] })
      (fun t => t.statusWord == 0x00000000#32 && t.sent == [.rx, .close] && t.handle == .closed) = true := by decide

/-- V-R1 to V-R5. -/
theorem test_reset_values :
    boot.readReg .status = 0x00000000#32 ∧ boot.readReg .tcpctl = 0x00000005#32 ∧ boot.readReg .ipcfg = 0x00004000#32
    ∧ boot.readReg .rmax = 0x00010000#32 ∧ boot.readReg .plen = 0x00000000#32 := by decide

/-! ### Witnesses: for each statement with hypotheses, inputs that meet them, at the ends of their ranges -/

/-- `boot` with a command word accepted. -/
def running (v : Word) : State := boot.accept v

/-- DEV_READ waits for a datagram (P5). -/
def waiting : State := { opened boot [] with phase := .waitEnv .devRead .rx false, sent := [.rx], regs := { boot.regs with cmd := 0x51#32 } }

/-- The same state with this access next. -/
def State.facing (s : State) (a : Access) : State := { s with inputs := [.access a] }

theorem noAnswerNext_of_nil {s : State} (h : s.inputs = []) : NoAnswerNext s := by simp [NoAnswerNext, h]

theorem witness_IllegalWordsCommitEill :
    (∀ v ∈ [0x00000200#32, 0x80000001#32, 0x00000003#32, 0x00000054#32, 0x000000FF#32, 0x00000101#32, 0x00000153#32],
      IllegalWord v) ∧
    (∃ s : State, s.phase = .idle ∧ s.inputs = .access (.write .w32 0x00000#20 0x00000200#32) :: []) ∧
    (∃ s : State, s.phase = .busy 0x00000200#32 ∧ s.inputs = .engine :: []) :=
  ⟨by simp [IllegalWord], ⟨State.facing boot _, rfl, rfl⟩, ⟨boot.withFetchWord 32 0x200, rfl, rfl⟩⟩

theorem witness_StepRunsDecodedCommand :
    (∃ (s : State) (v : Word), s.phase = .busy v ∧ decode v = .ok (.devWrite true) ∧ s.inputs = .engine :: []) ∧
    (∃ (s : State) (v : Word), s.phase = .busy v ∧ decode v = .ok (.devWrite true) ∧ s.inputs = []) ∧
    (∃ (s : State) (v : Word), s.phase = .busy v ∧ decode v = .error .arg0NotAllowed ∧ s.inputs = .engine :: []) ∧
    (∃ (s : State) (v : Word), s.phase = .busy v ∧ decode v = .error .reservedBits ∧ s.inputs = []) :=
  ⟨⟨boot.withFetchWord 32 0x152, _, rfl, by decide, rfl⟩, ⟨running 0x152#32, _, rfl, by decide, rfl⟩,
   ⟨boot.withFetchWord 32 0x153, _, rfl, by decide, rfl⟩, ⟨running 0x200#32, _, rfl, by decide, rfl⟩⟩

theorem witness_CommandAcceptance :
    (∃ s : State, s.inputs = .access (.write .w32 0x00000#20 0xFFFFFFFF#32) :: [] ∧ s.phase = .idle) ∧
    (∃ s : State, s.inputs = .access (.write .w32 0x00000#20 0x00000000#32) :: [] ∧ s.phase ≠ .idle) :=
  ⟨⟨State.facing boot _, rfl, rfl⟩, ⟨State.facing waiting _, rfl, by decide⟩⟩

theorem witness_CommandCommitsOrWaits :
    (∃ t, exec .nop boot = .next t) ∧ (∃ t, exec .devRead (opened boot []) = .next t ∧ t.phase = .waitEnv .devRead .rx false) :=
  ⟨⟨_, rfl⟩, ⟨_, rfl, rfl⟩⟩

theorem witness_EveryCommandRuns : NoAnswerNext boot ∧ NoAnswerNext (State.facing boot (.read .w32 0#20)) :=
  ⟨noAnswerNext_of_nil rfl, by simp [NoAnswerNext, State.facing]⟩

theorem witness_LateAnswerAsPromptAnswer :
    (∃ t, exec .devOpen boot = .next t ∧ t.phase = .waitEnv .devOpen (.openDev (List.replicate 16 0x00#8)) false ∧ t.inputs = []) ∧
    (∃ t, exec .devOpen (opened boot [.ok]) = .next t ∧ t.phase = .waitEnv .devOpen (.openDev (List.replicate 16 0x00#8)) false
      ∧ t.inputs = []) ∧
    (∃ t, exec .sendUdp (opened (withBytes []) []) = .next t ∧ (∃ d, t.phase = .waitEnv .sendUdp (.tx d) false) ∧ t.inputs = []) :=
  ⟨⟨_, rfl, rfl, rfl⟩, ⟨_, rfl, rfl, rfl⟩, ⟨_, rfl, ⟨_, rfl⟩, rfl⟩⟩

theorem witness_WaitEndsOnlyByAnswerOrReset :
    waiting.phase = .waitEnv .devRead .rx false ∧ (∃ t, step waiting = .next t) ∧
    ∃ t, step (State.facing waiting (.write .w32 0x00008#20 5#32)) = .next t := ⟨rfl, ⟨_, rfl⟩, ⟨_, rfl⟩⟩

theorem witness_UnsolicitedAnswerStops :
    (∃ s : State, s.inputs = .answer .ok :: [] ∧ ∀ i req refused, s.phase ≠ .waitEnv i req refused) ∧
    (∃ s : State, s.inputs = .answer .ok :: [] ∧ s.phase = .waitEnv .devRead .rx false ∧ ExcludedAnswer .rx .ok) ∧
    (∃ s : State, s.inputs = .answer (.data []) :: [] ∧ s.phase = .waitEnv .devRead .rx false ∧ ¬ ExcludedAnswer .rx (.data [])
      ∧ ∀ b more, ([] : List Event) ≠ .answer b :: more) :=
  ⟨⟨opened boot [.ok], rfl, fun _ _ _ h => nomatch h⟩, ⟨{ waiting with inputs := [.answer .ok] }, rfl, rfl, trivial⟩,
   ⟨{ waiting with inputs := [.answer (.data [])] }, rfl, rfl, id, fun _ _ h => nomatch h⟩⟩

theorem witness_SlverrExactly :
    (∀ a ∈ [0x44, 0x4C, 0x60, 0xFC, 0x100, 0xFFFC, 0x30014, 0x3FFFC, 0x50000, 0xFFFFC], AnswersSlverr false .w32 a) ∧
    (∀ a ∈ [0x00, 0x0C, 0x40, 0x50, 0x5C, 0x10000, 0x1FFFC, 0x20000, 0x30010, 0x40000, 0x4FFFC], ¬ AnswersSlverr false .w32 a) ∧
    (∀ a ∈ [0x0C, 0x10, 0x14, 0x40, 0x20000, 0x30010, 0x40000, 0x4FFFC], AnswersSlverr true .w32 a) ∧
    (∀ a ∈ [0x00, 0x08, 0x18, 0x3C, 0x50, 0x5C, 0x10000, 0x1FFFC], ¬ AnswersSlverr true .w32 a) ∧
    AnswersSlverr false .w8 0x5C ∧ AnswersSlverr false .w16 0x10000 ∧ ¬ AnswersSlverr false .w8 0x4FFFF ∧
    (∃ s : State, s.inputs = .access (.read .w32 0x30010#20) :: []) ∧
    (∃ s : State, s.inputs = .access (.write .w8 0x1FFFF#20 0#32) :: []) :=
  ⟨by unfold AnswersSlverr; decide, by unfold AnswersSlverr; decide, by unfold AnswersSlverr; decide,
   by unfold AnswersSlverr; decide, by unfold AnswersSlverr; decide, by unfold AnswersSlverr; decide,
   by unfold AnswersSlverr; decide, ⟨State.facing boot _, rfl⟩, ⟨State.facing boot _, rfl⟩⟩

theorem witness_RegisterReads :
    (∃ s : State, s.inputs = .access (.read .w32 0x00#20) :: []) ∧ ∃ s : State, s.inputs = .access (.read .w32 0x5C#20) :: [] :=
  ⟨⟨State.facing boot _, rfl⟩, ⟨State.facing waiting _, rfl⟩⟩

theorem witness_RegisterWriteTruncates :
    ∃ s : State, s.phase = .idle ∧ s.inputs = .access (.write .w32 0x2C#20 0xFFFFFFFF#32) :: [] :=
  ⟨State.facing boot _, rfl, rfl⟩

theorem witness_StatusWriteClears :
    ∃ s : State, s.inputs = .access (.write .w32 0x04#20 6#32) :: [] ∧ s.status.done = true ∧ s.status.wign = true :=
  ⟨State.facing { boot with status := { boot.status with done := true, wign := true } } _, rfl, rfl, rfl⟩

theorem witness_BusyWritesDropped :
    ∃ s : State, s.inputs = .access (.write .w8 0x1FFFF#20 0xFF#32) :: [] ∧ s.phase ≠ .idle
      ∧ ¬ AnswersSlverr true .w8 0x1FFFF ∧ (0x1FFFF#20 : BitVec 20) ≠ 0x04#20 :=
  ⟨State.facing waiting _, rfl, by decide, by unfold AnswersSlverr; decide, by decide⟩

theorem witness_OperandsFixedWhileBusy :
    ∃ s t : State, s.phase ≠ .idle ∧ (∀ rest, s.inputs ≠ .reset :: rest) ∧ step s = .next t ∧ t.phase = .idle :=
  ⟨running 0x10#32, _, by decide, fun _ h => (nomatch h), rfl, rfl⟩

theorem witness_InputWordLanes :
    ∃ s : State, s.inputs = .access (.write .w32 0x1FFFC#20 0xEFBEADDE#32) :: [] ∧ s.phase = .idle
      ∧ 0x10000 ≤ (0x1FFFC#20 : BitVec 20).toNat ∧ (0x1FFFC#20 : BitVec 20).toNat ≤ 0x1FFFF
      ∧ (0x1FFFC#20 : BitVec 20).toNat % 4 = 0 := ⟨State.facing boot _, rfl, rfl, by decide, by decide, by decide⟩

theorem witness_InputByteWrite :
    ∃ s : State, s.inputs = .access (.write .w8 0x1FFFF#20 0xFF#32) :: [] ∧ s.phase = .idle
      ∧ 0x10000 ≤ (0x1FFFF#20 : BitVec 20).toNat ∧ (0x1FFFF#20 : BitVec 20).toNat ≤ 0x1FFFF :=
  ⟨State.facing boot _, rfl, rfl, by decide, by decide⟩

theorem witness_BufferReads :
    (∃ s : State, inBuffers 0x4FFFF ∧ s.phase = .idle ∧ s.inputs = .access (.read .w8 0x4FFFF#20) :: []) ∧
    (∃ s : State, inBuffers 0x30010 ∧ s.phase = .idle ∧ s.inputs = .access (.read .w32 0x30010#20) :: []) ∧
    (∃ s : State, inBuffers 0x1FFFC ∧ s.phase ≠ .idle ∧ s.inputs = .access (.read .w32 0x1FFFC#20) :: []) :=
  ⟨⟨State.facing boot _, by unfold inBuffers; decide, rfl, rfl⟩, ⟨State.facing boot _, by unfold inBuffers; decide, rfl, rfl⟩,
   ⟨State.facing waiting _, by unfold inBuffers; decide, by decide, rfl⟩⟩

theorem witness_BusyBufferReads :
    (∃ s : State, s.inputs = .access (.read .w32 0x20000#20) :: [] ∧ s.phase ≠ .idle ∧ inBuffers 0x20000) ∧
    (∃ s : State, s.inputs = .access (.read .w8 0x4FFFF#20) :: [] ∧ s.phase ≠ .idle ∧ inBuffers 0x4FFFF) :=
  ⟨⟨State.facing waiting _, rfl, by decide, by unfold inBuffers; decide⟩,
   ⟨State.facing waiting _, rfl, by decide, by unfold inBuffers; decide⟩⟩

theorem witness_FoldIsResidue : (0 : Nat) < 1 := by decide

theorem witness_FoldLoopsAtMostTwice : (0 : Nat) < 2 ^ 32 ∧ 0xFFFFFFFF < 2 ^ 32 := by decide

theorem witness_ChecksumIgnoresWordOrder :
    (∃ m m' : List Byte, m ≠ m' ∧ (words m).Perm (words m')) ∧ (∃ t, exec .ipEnc boot = .next t) :=
  ⟨⟨[1#8, 2#8, 3#8, 4#8], [3#8, 4#8, 1#8, 2#8], by decide, by decide⟩, ⟨_, rfl⟩⟩

theorem witness_OddBytePadded : ([0x12#8, 0x34#8, 0x56#8] : List Byte).length % 2 = 1 ∧ ([] : List Byte).length % 2 = 0 := by
  decide

/-- V-U4 is where the substitution fires, V-U1 where it does not. -/
theorem witness_ChecksumRoundTrip :
    checksum (udpInput 0#32 0#32 0#16 0#16 [0xFF#8, 0xDA#8]) = 0x0000#16
    ∧ checksum (udpInput 0x0A000001#32 0x0A000002#32 1234#16 53#16 [0x74#8, 0x65#8, 0x73#8, 0x74#8]) = 0xFEF2#16 := by decide

/-- The length limits of CSUM, CSUM_UDP, TCP_ENC, UDP_ENC, SEND_UDP, PARSE_SRC, PARSE_DST and DEV_WRITE. -/
theorem witness_lengths :
    (withLen 0).regs.len.toNat ≤ 65527 ∧ (withLen 65527).regs.len.toNat ≤ 65527 ∧ 65527 < (withLen 65528).regs.len.toNat
    ∧ (withLen 65536).regs.len.toNat ≤ 65536 ∧ 65536 < (withLen 65537).regs.len.toNat
    ∧ 65536 < (withLen 4294967295).regs.len.toNat := by decide

/-- PARSE_SRC and PARSE_DST: the least and the greatest address, and a text of no address. -/
theorem witness_ParseResult :
    (∃ s : State, s.regs.len.toNat ≤ 65536 ∧ s.input = dottedQuad 0x00000000#32) ∧
    (∃ s : State, s.regs.len.toNat ≤ 65536 ∧ s.input = dottedQuad 0xFFFFFFFF#32) ∧
    (∃ s : State, s.regs.len.toNat ≤ 65536 ∧ ∀ v, s.input ≠ dottedQuad v) :=
  ⟨⟨withBytes (dottedQuad 0x00000000#32), by decide, by decide⟩, ⟨withBytes (dottedQuad 0xFFFFFFFF#32), by decide, by decide⟩,
   ⟨withLen 0, by decide, fun v h => by
      have h : ([] : List Byte) = dottedQuad v := h
      simp [dottedQuad] at h⟩⟩

theorem witness_IpEncReadsOnlyItsOperands :
    ∃ s s' : State, s ≠ s' ∧ s.ipId = s'.ipId ∧ s.regs.srcAddr = s'.regs.srcAddr ∧ s.regs.dstAddr = s'.regs.dstAddr
      ∧ s.regs.ipcfg = s'.regs.ipcfg ∧ s.regs.plen = s'.regs.plen :=
  ⟨boot, withLen 5, by decide, rfl, rfl, rfl, rfl, rfl⟩

theorem witness_ConfigRecordBytes : tun0.length = 16 := by decide

theorem witness_DevOpenResult :
    (∃ s : State, s.handle = .closed ∧ s.inputs = .answer .ok :: .answer .ok :: []) ∧
    (∃ s : State, s.handle = .closed ∧ s.inputs = .answer .fail :: []) ∧
    (∃ s : State, s.handle = .closed ∧ s.inputs = .answer .ok :: .answer .fail :: .answer .ok :: []) ∧
    (∃ s : State, s.handle = .closed ∧ NoAnswerNext s) ∧
    (∃ s : State, s.handle ≠ .closed ∧ s.inputs = .answer .ok :: .answer .ok :: .answer .ok :: []) ∧
    (∃ s : State, s.handle ≠ .closed ∧ NoAnswerNext s) :=
  ⟨⟨{ boot with inputs := [.answer .ok, .answer .ok] }, rfl, rfl⟩, ⟨{ boot with inputs := [.answer .fail] }, rfl, rfl⟩,
   ⟨{ boot with inputs := [.answer .ok, .answer .fail, .answer .ok] }, rfl, rfl⟩, ⟨boot, rfl, noAnswerNext_of_nil rfl⟩,
   ⟨opened boot [.ok, .ok, .ok], by decide, rfl⟩, ⟨opened boot [], by decide, noAnswerNext_of_nil rfl⟩⟩

theorem witness_DevReadResult :
    (∃ s : State, 65536 < s.regs.rmax.toNat) ∧ (∃ s : State, s.regs.rmax.toNat ≤ 65536 ∧ s.handle = .closed) ∧
    (∃ s : State, s.regs.rmax.toNat ≤ 65536 ∧ s.handle ≠ .closed ∧ s.inputs = .answer (.data []) :: []) ∧
    (∃ s : State, s.regs.rmax.toNat = 65536 ∧ s.handle ≠ .closed ∧ s.inputs = .answer .fail :: []) ∧
    (∃ s : State, s.regs.rmax.toNat ≤ 65536 ∧ s.handle ≠ .closed ∧ NoAnswerNext s) :=
  ⟨⟨{ boot with regs := { boot.regs with rmax := 65537#32 } }, by decide⟩, ⟨boot, by decide, rfl⟩,
   ⟨opened boot [.data []], by decide, by decide, rfl⟩, ⟨opened boot [.fail], by decide, by decide, rfl⟩,
   ⟨opened boot [], by decide, by decide, noAnswerNext_of_nil rfl⟩⟩

/-- DEV_WRITE, DEV_CLOSE and SEND_UDP: the handle CLOSED, and OPEN with each answer and with none (LEN = 0, within every
limit). -/
theorem witness_transmit :
    (∃ s : State, s.regs.len.toNat ≤ 65527 ∧ s.handle = .closed) ∧
    (∃ s : State, s.regs.len.toNat ≤ 65527 ∧ s.handle ≠ .closed ∧ s.inputs = .answer .ok :: []) ∧
    (∃ s : State, s.regs.len.toNat ≤ 65527 ∧ s.handle ≠ .closed ∧ s.inputs = .answer .fail :: []) ∧
    (∃ s : State, s.regs.len.toNat ≤ 65527 ∧ s.handle ≠ .closed ∧ NoAnswerNext s) :=
  ⟨⟨boot, by decide, rfl⟩, ⟨opened boot [.ok], by decide, by decide, rfl⟩, ⟨opened boot [.fail], by decide, by decide, rfl⟩,
   ⟨opened boot [], by decide, by decide, noAnswerNext_of_nil rfl⟩⟩

theorem witness_SendUdpIsComposition :
    ∃ s w : State, s.regs.len.toNat ≤ 65527 ∧ exec .sendUdp s = .next w ∧ w.phase = .idle ∧ s.handle ≠ .closed :=
  ⟨opened testMessage [.ok], _, by decide, rfl, rfl, by decide⟩

theorem witness_CommandsWriteTheirRegisters :
    ∃ t, exec .csum (withLen 0) = .next t ∧ Reg.srcAddr ≠ .status ∧ writesReg .csum .srcAddr = false := ⟨_, rfl, by decide, rfl⟩

theorem witness_HostRegistersWrittenByHost :
    ∃ s t : State, step s = .next t ∧ (∀ a rest, s.inputs ≠ .access a :: rest) ∧ (∀ rest, s.inputs ≠ .reset :: rest) :=
  ⟨running 0x01#32, _, rfl, fun _ _ h => (nomatch h), fun _ h => (nomatch h)⟩

/-- DEV_READ of one byte over a written one. -/
theorem witness_CommandsWriteTheirBytes :
    let s := (opened boot [.data [0x45#8]]).memWrite .rbuf 0 [0x44#8]
    ∃ t, exec .devRead s = .next t ∧ t.byte 0x40000 ≠ s.byte 0x40000 := ⟨_, rfl, by decide⟩

theorem witness_FailedCommandsKeepOutputs :
    ∃ t, exec .csum (withLen 65537) = .next t ∧ t.phase = .idle ∧ t.status.err ≠ .none
      ∧ ¬ (Instr.csum = .sendUdp ∧ t.status.err = .edev) := ⟨_, rfl, rfl, by decide, by decide⟩

/-- DEV_CLOSE accepted with the handle OPEN, and the answer to its request at hand. -/
def closing : State := { (opened boot []).accept 0x53#32 with inputs := [.engine, .answer .ok] }

theorem closing_inv : closing.Inv where
  memWf := by decide
  memInBuffers := fun _ h => nomatch h
  olenBound := by decide
  rlenBound := by decide
  accBound := by decide
  tcpctlReserved := by decide
  ipcfgReserved := by decide
  plenReserved := by decide
  devsubOfEdev := by decide
  busyClear := fun _ => ⟨rfl, rfl, rfl⟩
  busyCmd := fun _ h => by cases h; rfl
  waitCmd := fun _ _ _ h => nomatch h
  waitReq := fun _ _ _ h => nomatch h
  waitSent := fun _ _ _ h => nomatch h
  waitRefused := fun _ _ h => nomatch h
  handleName := fun _ h => by cases h; rfl

theorem witness_StepKeepsInvariant : ∃ s t : State, s.Inv ∧ step s = .next t := ⟨closing, _, closing_inv, rfl⟩

theorem witness_HandleChangesOnly :
    ∃ s t : State, s.Inv ∧ step s = .next t ∧ t.handle ≠ s.handle := ⟨closing, _, closing_inv, rfl, by decide⟩

/-- A step that sends a request, and one that resets with the handle OPEN. -/
theorem witness_RequestsOnlyByCommands :
    (∃ t, step closing = .next t ∧ t.sent = closing.sent ++ [.close]) ∧
    (∃ s t : State, s.phase = .idle ∧ step s = .next t ∧ t.sent = s.sent ++ [.close]) :=
  ⟨⟨_, rfl, rfl⟩, ⟨{ opened boot [] with inputs := [.reset] }, _, rfl, rfl, rfl⟩⟩

theorem witness_IdentificationConstant : ∃ t, step closing = .next t := ⟨_, rfl⟩

theorem witness_ResetEffect :
    (∃ s : State, s.inputs = .reset :: [] ∧ s.handle ≠ .closed) ∧
    (∃ s : State, s.inputs = .reset :: [] ∧ ∃ i req refused, s.phase = .waitEnv i req refused) ∧
    (∃ s : State, s.inputs = .reset :: [] ∧ ¬ (s.handle ≠ .closed ∨ ∃ i req refused, s.phase = .waitEnv i req refused)) :=
  ⟨⟨{ opened boot [] with inputs := [.reset] }, rfl, by decide⟩, ⟨{ waiting with inputs := [.reset] }, rfl, _, _, _, rfl⟩,
   ⟨{ boot with inputs := [.reset] }, rfl, by rintro (h | ⟨_, _, _, h⟩) <;> first | exact h rfl | cases h⟩⟩

end Sys2Proof.Tests
end

section
/-!
The register file (10_state.md): where the registers stand on the bus, what an access to one does, the word of `STATUS`,
and which registers a command leaves alone (R47).
-/

namespace Sys2Proof.Machine

/-! ### Accesses that are carried out -/

/-- A read that does not answer SLVERR. -/
theorem step_of_read {s : State} {rest : List Event} {w : Width} {addr : BitVec 20} {g : Target}
    (hi : s.inputs = .access (.read w addr) :: rest) (hg : targetOf addr = some g)
    (hs : (Access.read w addr).slverr = false) :
    step s = .next (State.busRead { s with inputs := rest } w g) := by
  simp [step_of_access hi, hostTurn, hs, hg]

/-- A write that does not answer SLVERR. -/
theorem step_of_write {s : State} {rest : List Event} {w : Width} {addr : BitVec 20} {v : Word} {g : Target}
    (hi : s.inputs = .access (.write w addr v) :: rest) (hg : targetOf addr = some g)
    (hs : (Access.write w addr v).slverr = false) :
    step s = .next (State.busWrite { s with inputs := rest } w v g) := by
  simp [step_of_access hi, hostTurn, hs, hg]

/-! ### The bus address of a register -/

/-- The bus address of a register: its offset in R23, from the start of the address space (R62). -/
def Reg.address : Reg → BitVec 20
  | .cmd => 0x00#20
  | .status => 0x04#20
  | .len => 0x08#20
  | .olen => 0x0C#20
  | .result => 0x10#20
  | .acc => 0x14#20
  | .srcAddr => 0x18#20
  | .dstAddr => 0x1C#20
  | .ports => 0x20#20
  | .seq => 0x24#20
  | .ackn => 0x28#20
  | .tcpctl => 0x2C#20
  | .winurg => 0x30#20
  | .ipcfg => 0x34#20
  | .plen => 0x38#20
  | .rmax => 0x3C#20
  | .rlen => 0x40#20
  | .devname0 => 0x50#20
  | .devname1 => 0x54#20
  | .devname2 => 0x58#20
  | .devname3 => 0x5C#20

/-- The 21 registers of R23, in the order of their addresses. -/
def allRegs : List Reg :=
  [.cmd, .status, .len, .olen, .result, .acc, .srcAddr, .dstAddr, .ports, .seq, .ackn, .tcpctl, .winurg, .ipcfg, .plen,
   .rmax, .rlen, .devname0, .devname1, .devname2, .devname3]

/-- The 15 operand registers: what a host write can change but for `CMD` and `STATUS`. -/
def operandRegs : List Reg :=
  [.len, .srcAddr, .dstAddr, .ports, .seq, .ackn, .tcpctl, .winurg, .ipcfg, .plen, .rmax, .devname0, .devname1, .devname2,
   .devname3]

theorem of_mem_operandRegs {r : Reg} (h : r ∈ operandRegs) : r ≠ .status ∧ r ≠ .cmd ∧ r.readOnly = false := by
  revert r
  decide

@[simp] theorem targetOf_address (r : Reg) : targetOf r.address = some (.reg r) := by cases r <;> rfl

@[simp] theorem alignedFor_address (w : Width) (r : Reg) : alignedFor w r.address = true := by
  have aligned : r.address.toNat % 4 = 0 := by cases r <;> rfl
  simp [alignedFor, aligned]

theorem slverr_read_address (r : Reg) : (Access.read .w32 r.address).slverr = false := by
  simp [Access.slverr, Target.acceptsRead]

theorem slverr_write_address {r : Reg} (h : r.readOnly = false) (v : Word) :
    (Access.write .w32 r.address v).slverr = false := by
  simp [Access.slverr, Target.acceptsWrite, h]

/-- What a register reads does not depend on what happens next, nor on the last bus response. -/
theorem State.readReg_bus (s : State) (rest : List Event) (resp : Response) (r : Reg) :
    State.readReg { s with inputs := rest, resp := resp } r = s.readReg r := by
  cases r <;> rfl

/-- R66: a 32-bit read of a register, in any phase. -/
theorem step_read_register {s : State} {rest : List Event} {r : Reg}
    (hi : s.inputs = .access (.read .w32 r.address) :: rest) :
    step s = .next { s with inputs := rest, resp := .data (s.readReg r) } := by
  rw [step_of_read hi (targetOf_address r) (slverr_read_address r), State.busRead,
    State.readReg_bus s rest s.resp r]

/-- A 32-bit write to a register that is not read-only. -/
theorem step_write_register {s : State} {rest : List Event} {r : Reg} {v : Word}
    (hi : s.inputs = .access (.write .w32 r.address v) :: rest) (hr : r.readOnly = false) :
    step s = .next (State.busWrite { s with inputs := rest } .w32 v (.reg r)) :=
  step_of_write hi (targetOf_address r) (slverr_write_address hr v)

/-! ### Host writes -/

/-- While IDLE a write to an operand register goes to the register file, and nowhere else. -/
theorem State.storeTo_operand {s : State} {r : Reg} (w : Width) (v : Word) (hstatus : r ≠ .status) (hcmd : r ≠ .cmd)
    (hidle : s.phase = .idle) : s.storeTo w v (.reg r) = { s with regs := s.regs.hostWrite r v } := by
  cases r <;> simp_all [State.storeTo, Phase.isBusy]

/-- R24, R67: a 32-bit write to an operand register while IDLE. -/
theorem step_write_operand {s : State} {rest : List Event} {r : Reg} {v : Word}
    (hi : s.inputs = .access (.write .w32 r.address v) :: rest) (hstatus : r ≠ .status) (hcmd : r ≠ .cmd)
    (hro : r.readOnly = false) (hidle : s.phase = .idle) :
    step s = .next { s with regs := s.regs.hostWrite r v, inputs := rest, resp := .okay } := by
  have store : State.storeTo { s with inputs := rest } .w32 v (.reg r) = _ := State.storeTo_operand _ _ hstatus hcmd hidle
  rw [step_write_register hi hro, State.busWrite, store]

theorem State.readReg_hostWrite_same (s : State) {r : Reg} (v : Word) (hs : r ≠ .status) (hr : r.readOnly = false) :
    State.readReg { s with regs := s.regs.hostWrite r v } r = v &&& r.mask := by
  cases r <;> simp_all [Reg.readOnly, State.readReg, Regs.hostWrite]

theorem State.readReg_hostWrite_other (s : State) {r r' : Reg} (v : Word) (h : r' ≠ r) :
    State.readReg { s with regs := s.regs.hostWrite r v } r' = s.readReg r' := by
  cases r <;> cases r' <;> simp [State.readReg, State.statusWord, Regs.hostWrite] at h ⊢

/-- R27: a 1 in bit 1 clears DONE, a 1 in bit 2 clears WIGN. -/
theorem Status.hostWrite_eq_ite (f : Status) (v : Word) :
    f.hostWrite v = { f with
      done := if v.getLsbD 1 then false else f.done
      wign := if v.getLsbD 2 then false else f.wign } := by
  unfold Status.hostWrite
  cases v.getLsbD 1 <;> cases v.getLsbD 2 <;> simp

/-! ### The word of `STATUS` -/

/-- R45. -/
theorem Phase.isBusy_eq_decide (p : Phase) : p.isBusy = decide (p ≠ .idle) := by cases p <;> rfl

/-- R26, R40. -/
theorem Handle.isOpen_eq_decide (h : Handle) : h.isOpen = decide (h ≠ .closed) := by cases h <;> rfl

/-- R26: what stands at each bit of the word. -/
theorem State.statusWord_getLsbD (s : State) (n : Nat) :
    s.statusWord.getLsbD n =
      if n = 0 then s.phase.isBusy
      else if n = 1 then s.status.done
      else if n = 2 then s.status.wign
      else if n = 3 then s.handle.isOpen
      else if n < 8 then s.status.err.code.getLsbD (n - 4)
      else if n < 12 then s.status.devsub.code.getLsbD (n - 8)
      else false := by
  unfold State.statusWord
  -- `getLsbD_append` sees the fields only where the width is their sum
  change BitVec.getLsbD (w := 20 + 4 + 4 + 1 + 1 + 1 + 1) _ n = _
  simp only [BitVec.getLsbD_append]
  match n with
  | 0 | 1 | 2 | 3 => simp
  | n + 4 =>
    have err_bits : n + 4 < 8 ↔ n < 4 := by omega
    have devsub_bits : n + 4 < 12 ↔ n - 4 < 4 := by omega
    by_cases hn : n - 4 < 4 <;> simp [err_bits, devsub_bits, hn]

theorem State.statusWord_err (s : State) : s.statusWord.extractLsb' 4 4 = s.status.err.code :=
  BitVec.eq_of_getLsbD_eq fun i hi => by
    have past : 4 + i ≠ 1 ∧ 4 + i ≠ 2 ∧ 4 + i ≠ 3 ∧ 4 + i < 8 := by omega
    simp [State.statusWord_getLsbD, hi, past]

theorem State.statusWord_devsub (s : State) : s.statusWord.extractLsb' 8 4 = s.status.devsub.code :=
  BitVec.eq_of_getLsbD_eq fun i hi => by
    have past : 8 + i ≠ 1 ∧ 8 + i ≠ 2 ∧ 8 + i ≠ 3 ∧ ¬ 8 + i < 8 ∧ 8 + i < 12 := by omega
    simp [State.statusWord_getLsbD, hi, past]

theorem State.statusWord_reserved (s : State) : s.statusWord.extractLsb' 12 20 = 0#20 :=
  BitVec.eq_of_getLsbD_eq fun i hi => by
    have past : 12 + i ≠ 1 ∧ 12 + i ≠ 2 ∧ 12 + i ≠ 3 ∧ ¬ 12 + i < 8 ∧ ¬ 12 + i < 12 := by omega
    simp [State.statusWord_getLsbD, past]

/-! ### What a command leaves in the register file (R47) -/

/-- Every register but `STATUS` is what the register file says. -/
theorem State.readReg_congr {s t : State} {r : Reg} (h : t.regs = s.regs) (hr : r ≠ .status) :
    t.readReg r = s.readReg r := by
  cases r <;> simp_all [State.readReg]

/-- From `s` to `t` no register changes but those of the row of `i` in R47, and `STATUS`. -/
def KeepsOtherRegs (i : Instr) (s t : State) : Prop :=
  ∀ r, r ≠ .status → writesReg i r = false → t.readReg r = s.readReg r

section
variable {i : Instr} {s t u : State}

theorem KeepsOtherRegs.of_regs (h : t.regs = s.regs) : KeepsOtherRegs i s t :=
  fun _ hr _ => State.readReg_congr h hr

/-- What holds from `u` on holds from every state with the same registers. -/
theorem KeepsOtherRegs.of_start (h : KeepsOtherRegs i u t) (hu : u.regs = s.regs) : KeepsOtherRegs i s t :=
  fun r hr hw => (h r hr hw).trans (State.readReg_congr hu hr)

theorem KeepsOtherRegs.of_finish (h : finish u = .next t) (hu : KeepsOtherRegs i s u) : KeepsOtherRegs i s t := by
  have same : t.regs = u.regs := by cases h; rfl
  exact fun r hr hw => (State.readReg_congr same hr).trans (hu r hr hw)

theorem KeepsOtherRegs.of_raise {e : ErrCode} {d : DevSub} (h : raise e d u = .next t) (hu : KeepsOtherRegs i s u) :
    KeepsOtherRegs i s t := by
  have same : t.regs = u.regs := by cases h; rfl
  exact fun r hr hw => (State.readReg_congr same hr).trans (hu r hr hw)

/-! The rows of R47. -/

/-- The results of an encoding command stand in the row of `i`. -/
theorem KeepsOtherRegs.emit (x : Artifact) (holen : writesReg i .olen = true) (hacc : writesReg i .acc = true)
    (hresult : writesReg i .result = true) : KeepsOtherRegs i s (s.emit x) := fun r hr hw => by
  cases r <;> simp_all [State.readReg]

/-- The results of a checksum command stand in the row of `i`. -/
theorem KeepsOtherRegs.setChecksum (n : Nat) (v : Word) (hacc : writesReg i .acc = true)
    (hresult : writesReg i .result = true) : KeepsOtherRegs i s (s.setChecksum n v) := fun r hr hw => by
  cases r <;> simp_all [State.readReg]

theorem KeepsOtherRegs.srcAddr (v : Word) :
    KeepsOtherRegs .parseSrc s { s with regs := { s.regs with srcAddr := v } } := fun r hr hw => by
  cases r <;> simp_all [State.readReg, writesReg]

theorem KeepsOtherRegs.dstAddr (v : Word) :
    KeepsOtherRegs .parseDst s { s with regs := { s.regs with dstAddr := v } } := fun r hr hw => by
  cases r <;> simp_all [State.readReg, writesReg]

theorem KeepsOtherRegs.rlen (v : Word) :
    KeepsOtherRegs .devRead s { s with regs := { s.regs with rlen := v } } := fun r hr hw => by
  cases r <;> simp_all [State.readReg, writesReg]

/-! The shared operations. -/

theorem withInput_keepsOtherRegs {k : List Byte → Result} (h : withInput s k = .next t)
    (hk : ∀ p, k p = .next t → KeepsOtherRegs i s t) : KeepsOtherRegs i s t := by
  obtain ⟨-, rfl⟩ | ⟨-, h⟩ := withInput_next h
  · exact .of_regs rfl
  · exact hk _ h

theorem withUdpPayload_keepsOtherRegs {k : List Byte → Result} (h : withUdpPayload s k = .next t)
    (hk : ∀ p, k p = .next t → KeepsOtherRegs i s t) : KeepsOtherRegs i s t := by
  obtain ⟨-, rfl⟩ | ⟨-, -, rfl⟩ | ⟨-, h⟩ := withUdpPayload_next h
  · exact .of_regs rfl
  · exact .of_regs rfl
  · exact hk _ h

theorem envRequest_keepsOtherRegs {j : Instr} {req : EnvReq} {k : Answer → State → Result} {refused : Bool}
    (h : envRequest j req k s refused = .next t) (hk : ∀ a u, k a u = .next t → KeepsOtherRegs i u t) :
    KeepsOtherRegs i s t := by
  obtain ⟨a, rest, -, -, h⟩ | ⟨-, rfl⟩ := envRequest_next h
  · exact (hk _ _ h).of_start rfl
  · exact .of_regs rfl

/-! The answers to requests (R185-R188, R200). -/

theorem devOpenRefused_keepsOtherRegs {a : Answer} (h : devOpenRefused a s = .next t) : KeepsOtherRegs i s t :=
  .of_raise h (.of_regs rfl)

theorem devOpenConfigured_keepsOtherRegs {name : List Byte} {a : Answer} (h : devOpenConfigured name a s = .next t) :
    KeepsOtherRegs i s t := by
  unfold devOpenConfigured at h
  split at h
  · exact envRequest_keepsOtherRegs h fun _ _ => devOpenRefused_keepsOtherRegs
  · exact .of_finish h (.of_regs rfl)

theorem devOpenOpened_keepsOtherRegs {name : List Byte} {a : Answer} (h : devOpenOpened name a s = .next t) :
    KeepsOtherRegs i s t := by
  unfold devOpenOpened at h
  split at h
  · exact .of_raise h (.of_regs rfl)
  · exact envRequest_keepsOtherRegs h fun _ _ => devOpenConfigured_keepsOtherRegs

theorem devOpenRequest_keepsOtherRegs (h : devOpenRequest s = .next t) : KeepsOtherRegs i s t :=
  envRequest_keepsOtherRegs h fun _ _ => devOpenOpened_keepsOtherRegs

theorem devReadAnswered_keepsOtherRegs {a : Answer} (h : devReadAnswered a s = .next t) :
    KeepsOtherRegs .devRead s t := by
  cases a with
  | data d => exact .of_finish h ((KeepsOtherRegs.rlen _).of_start rfl)
  | ok => exact .of_raise h (.of_regs rfl)
  | fail => exact .of_raise h (.of_regs rfl)

theorem devWriteAnswered_keepsOtherRegs {a : Answer} (h : devWriteAnswered a s = .next t) : KeepsOtherRegs i s t := by
  unfold devWriteAnswered at h
  split at h
  · exact .of_raise h (.of_regs rfl)
  · exact .of_finish h (.of_regs rfl)

theorem devCloseAnswered_keepsOtherRegs {a : Answer} (h : devCloseAnswered a s = .next t) : KeepsOtherRegs i s t :=
  .of_finish h (.of_regs rfl)

theorem sendUdpAnswered_keepsOtherRegs {a : Answer} (h : sendUdpAnswered a s = .next t) :
    KeepsOtherRegs .sendUdp s t := by
  unfold sendUdpAnswered at h
  split at h
  · exact .of_raise h (.emit _ rfl rfl rfl)
  · exact .of_finish h (.emit _ rfl rfl rfl)

theorem transmit_keepsOtherRegs {arg0 : Bool} {d : List Byte} (h : transmit arg0 d s = .next t) :
    KeepsOtherRegs i s t := by
  obtain ⟨-, a, rest, -, -, h⟩ | ⟨-, -, rfl⟩ | ⟨-, rfl⟩ := transmit_next h
  · exact (devWriteAnswered_keepsOtherRegs h).of_start rfl
  · exact .of_regs rfl
  · exact .of_regs rfl

/-! The commands. -/

theorem execCsum_keepsOtherRegs (h : execCsum s = .next t) : KeepsOtherRegs .csum s t :=
  withInput_keepsOtherRegs h fun _ h => .of_finish h (.setChecksum _ _ rfl rfl)

theorem execCsumUdp_keepsOtherRegs (h : execCsumUdp s = .next t) : KeepsOtherRegs .csumUdp s t :=
  withInput_keepsOtherRegs h fun _ h => .of_finish h (.setChecksum _ _ rfl rfl)

theorem execParseSrc_keepsOtherRegs (h : execParseSrc s = .next t) : KeepsOtherRegs .parseSrc s t :=
  withInput_keepsOtherRegs h fun p h => by
    split at h
    · exact .of_raise h (.of_regs rfl)
    · exact .of_finish h (.srcAddr _)

theorem execParseDst_keepsOtherRegs (h : execParseDst s = .next t) : KeepsOtherRegs .parseDst s t :=
  withInput_keepsOtherRegs h fun p h => by
    split at h
    · exact .of_raise h (.of_regs rfl)
    · exact .of_finish h (.dstAddr _)

theorem execTcpEnc_keepsOtherRegs (h : execTcpEnc s = .next t) : KeepsOtherRegs .tcpEnc s t :=
  withInput_keepsOtherRegs h fun _ h => .of_finish h (.emit _ rfl rfl rfl)

theorem execUdpEnc_keepsOtherRegs (h : execUdpEnc s = .next t) : KeepsOtherRegs .udpEnc s t :=
  withUdpPayload_keepsOtherRegs h fun _ h => .of_finish h (.emit _ rfl rfl rfl)

theorem execSendUdp_keepsOtherRegs (h : execSendUdp s = .next t) : KeepsOtherRegs .sendUdp s t :=
  withUdpPayload_keepsOtherRegs h fun p h => by
    split at h
    · exact envRequest_keepsOtherRegs h fun _ _ => sendUdpAnswered_keepsOtherRegs
    · exact .of_raise h (.emit _ rfl rfl rfl)

theorem execDevOpen_keepsOtherRegs (h : execDevOpen s = .next t) : KeepsOtherRegs .devOpen s t := by
  unfold execDevOpen at h
  split at h
  · exact envRequest_keepsOtherRegs h fun _ _ => devOpenRequest_keepsOtherRegs
  · exact devOpenRequest_keepsOtherRegs h

theorem execDevRead_keepsOtherRegs (h : execDevRead s = .next t) : KeepsOtherRegs .devRead s t := by
  unfold execDevRead at h
  split at h
  · exact .of_raise h (.of_regs rfl)
  · split at h
    · exact envRequest_keepsOtherRegs h fun _ _ => devReadAnswered_keepsOtherRegs
    · exact .of_raise h (.of_regs rfl)

theorem execDevWrite_keepsOtherRegs {arg0 : Bool} (h : execDevWrite arg0 s = .next t) :
    KeepsOtherRegs (.devWrite arg0) s t := by
  unfold execDevWrite at h
  split at h
  · exact transmit_keepsOtherRegs h
  · exact withInput_keepsOtherRegs h fun _ => transmit_keepsOtherRegs

theorem execDevClose_keepsOtherRegs (h : execDevClose s = .next t) : KeepsOtherRegs .devClose s t := by
  unfold execDevClose at h
  split at h
  · exact envRequest_keepsOtherRegs h fun _ _ => devCloseAnswered_keepsOtherRegs
  · exact .of_finish h (.of_regs rfl)

/-- R47, for every command. -/
theorem exec_keepsOtherRegs (h : exec i s = .next t) : KeepsOtherRegs i s t := by
  cases i with
  | nop => exact .of_finish h (.of_regs rfl)
  | csum => exact execCsum_keepsOtherRegs h
  | csumUdp => exact execCsumUdp_keepsOtherRegs h
  | parseSrc => exact execParseSrc_keepsOtherRegs h
  | parseDst => exact execParseDst_keepsOtherRegs h
  | ipEnc => exact .of_finish h (.emit _ rfl rfl rfl)
  | tcpEnc => exact execTcpEnc_keepsOtherRegs h
  | udpEnc => exact execUdpEnc_keepsOtherRegs h
  | sendUdp => exact execSendUdp_keepsOtherRegs h
  | devOpen => exact execDevOpen_keepsOtherRegs h
  | devRead => exact execDevRead_keepsOtherRegs h
  | devWrite arg0 => exact execDevWrite_keepsOtherRegs h
  | devClose => exact execDevClose_keepsOtherRegs h

/-! The turns. Whatever command waits, its answer is taken as one command's rule says, so some row of R47 covers it. -/

theorem resume_keepsOtherRegs {req : EnvReq} {refused : Bool} {a : Answer} (h : resume i req refused a s = .next t) :
    ∃ j, KeepsOtherRegs j s t := by
  cases req with
  | openDev name => exact ⟨.devOpen, devOpenOpened_keepsOtherRegs h⟩
  | config name tun noPi => exact ⟨.devOpen, devOpenConfigured_keepsOtherRegs h⟩
  | rx => exact ⟨.devRead, devReadAnswered_keepsOtherRegs h⟩
  | tx d =>
    cases i
    case sendUdp => exact ⟨.sendUdp, sendUdpAnswered_keepsOtherRegs h⟩
    all_goals exact ⟨.devWrite false, devWriteAnswered_keepsOtherRegs h⟩
  | close =>
    cases i
    case devOpen =>
      cases refused with
      | true => exact ⟨.devOpen, devOpenRefused_keepsOtherRegs (a := a) h⟩
      | false => exact ⟨.devOpen, devOpenRequest_keepsOtherRegs h⟩
    all_goals exact ⟨.devClose, devCloseAnswered_keepsOtherRegs (a := a) h⟩

theorem engineTurn_keepsOtherRegs (h : engineTurn s = .next t) : ∃ j, KeepsOtherRegs j s t := by
  obtain ⟨v, i, -, -, h⟩ | ⟨v, x, -, -, rfl⟩ | ⟨-, rfl⟩ := engineTurn_next h
  · exact ⟨i, exec_keepsOtherRegs h⟩
  · exact ⟨.nop, .of_regs rfl⟩
  · exact ⟨.nop, .of_regs rfl⟩

theorem environmentTurn_keepsOtherRegs {a : Answer} (h : environmentTurn a s = .next t) : ∃ j, KeepsOtherRegs j s t := by
  obtain ⟨i, req, refused, -, -, h⟩ := environmentTurn_next h
  exact resume_keepsOtherRegs h

theorem step_keepsOtherRegs (h : step s = .next t) (haccess : ∀ a rest, s.inputs ≠ .access a :: rest)
    (hreset : ∀ rest, s.inputs ≠ .reset :: rest) : ∃ j, KeepsOtherRegs j s t := by
  obtain ⟨-, h⟩ | ⟨rest, -, h⟩ | ⟨a, rest, hi, -⟩ | ⟨a, rest, -, h⟩ | ⟨rest, hi, -⟩ := step_next h
  · exact engineTurn_keepsOtherRegs h
  · obtain ⟨j, hj⟩ := engineTurn_keepsOtherRegs h
    exact ⟨j, hj.of_start rfl⟩
  · exact absurd hi (haccess a rest)
  · obtain ⟨j, hj⟩ := environmentTurn_keepsOtherRegs h
    exact ⟨j, hj.of_start rfl⟩
  · exact absurd hi (hreset rest)

end

/-- No row of R47 holds a register that a host write can change, but for the addresses of the PARSE commands. -/
theorem writesReg_of_hostWritten (i : Instr) {r : Reg} (hro : r.readOnly = false) (hsrc : r ≠ .srcAddr)
    (hdst : r ≠ .dstAddr) : writesReg i r = false := by
  unfold writesReg
  split <;> simp_all [Reg.readOnly]

/-! ### The statements of 10_state.md -/

/-- Settles O50: `KeepsOtherRegs` of every command, by the cases of the command's rule. -/
theorem commandsWriteTheirRegisters : Obligations.CommandsWriteTheirRegisters :=
  fun _ _ _ r h hr hw => exec_keepsOtherRegs h r hr hw

/-- Settles O51: such a step changes only registers of one row of R47, and no row holds one of these. -/
theorem hostRegistersWrittenByHost : Obligations.HostRegistersWrittenByHost := by
  intro s t h haccess hreset r hr
  obtain ⟨j, hj⟩ := step_keepsOtherRegs h haccess hreset
  have hostWritten : r ≠ .status ∧ r.readOnly = false ∧ r ≠ .srcAddr ∧ r ≠ .dstAddr := by
    revert r
    decide
  obtain ⟨hstatus, hro, hsrc, hdst⟩ := hostWritten
  exact hj r hstatus (writesReg_of_hostWritten j hro hsrc hdst)

/-- Settles O13: each register is read at its address. -/
theorem registerReads : Obligations.RegisterReads := by
  intro s rest p hp
  obtain ⟨r, -, rfl⟩ := List.mem_map.mp (show p ∈ allRegs.map fun r => (r.address, s.readReg r) from hp)
  exact step_read_register

/-- Settles O14, field by field. -/
theorem statusWordFields : Obligations.StatusWordFields := by
  intro s
  refine ⟨?_, ?_, ?_, ?_, ?_, ?_, State.statusWord_reserved s⟩
  · rw [State.statusWord_getLsbD, ← Phase.isBusy_eq_decide]; rfl
  · rw [State.statusWord_getLsbD]; rfl
  · rw [State.statusWord_getLsbD]; rfl
  · rw [State.statusWord_getLsbD, ← Handle.isOpen_eq_decide]; rfl
  · rw [State.statusWord_err]
    cases s.status.err <;> rfl
  · rw [State.statusWord_devsub]
    cases s.status.devsub <;> rfl

/-- Settles O15: each operand register is written at its address, with its mask. -/
theorem registerWriteTruncates : Obligations.RegisterWriteTruncates := by
  intro s rest v p hp hidle hi
  obtain ⟨r, hr, rfl⟩ := List.mem_map.mp (show p ∈ operandRegs.map fun r => (r.address, r, r.mask) from hp)
  obtain ⟨hstatus, hcmd, hro⟩ := of_mem_operandRegs hr
  have bus := State.readReg_bus { s with regs := s.regs.hostWrite r v } rest .okay
  refine ⟨_, step_write_operand hi hstatus hcmd hro hidle, ?_, ?_, fun _ => rfl, rfl, hidle, rfl, rfl⟩
  · exact (bus r).trans (State.readReg_hostWrite_same s v hstatus hro)
  · exact fun r' hr' => (bus r').trans (State.readReg_hostWrite_other s v hr')

/-- Settles O16. -/
theorem statusWriteClears : Obligations.StatusWriteClears := by
  intro s rest v hi
  rw [step_write_register (r := .status) hi rfl, State.busWrite, State.storeTo, Status.hostWrite_eq_ite]

/-- Settles O58, register by register. -/
theorem resetStateValues : Obligations.ResetStateValues :=
  ⟨fun r => by cases r <;> rfl, rfl, rfl⟩

end Sys2Proof.Machine
end

section
/-!
The host bus (20_memory.md, section 2): which accesses answer SLVERR (R65), and what the others do to the buffers (R64, R66)
and while a command runs (R67).
-/

namespace Sys2Proof.Machine

/-! ### What stands at an address -/

/-- The 21 registers stand at multiples of 4, in the two ranges that R65 leaves out of its first item. -/
theorem Reg.address_toNat (r : Reg) :
    r.address.toNat % 4 = 0 ∧ (r.address.toNat ≤ 0x40 ∨ (0x50 ≤ r.address.toNat ∧ r.address.toNat ≤ 0x5C)) := by
  cases r <;> decide

/-- The read-only registers, by their addresses (R23, R65). -/
theorem Reg.readOnly_iff_address (r : Reg) :
    r.readOnly = true ↔
      r.address.toNat = 0x0C ∨ r.address.toNat = 0x10 ∨ r.address.toNat = 0x14 ∨ r.address.toNat = 0x40 := by
  cases r <;> decide

/-- Every multiple of 4 in the register file, but for the reserved ranges, is the address of a register. -/
theorem Reg.ofOffset_eq_none {a : Nat} (h : Reg.ofOffset a = none) :
    a % 4 ≠ 0 ∨ (0x44 ≤ a ∧ a ≤ 0x4F) ∨ 0x60 ≤ a := by
  by_contra hlisted
  have bound : a < 0x60 := by omega
  have all : ∀ a < 0x60, a % 4 = 0 → ¬ (0x44 ≤ a ∧ a ≤ 0x4F) → Reg.ofOffset a ≠ none := by decide
  exact all a bound (by omega) (by omega) h

theorem Reg.address_of_ofOffset {a : Nat} {r : Reg} (h : Reg.ofOffset a = some r) : r.address.toNat = a := by
  unfold Reg.ofOffset at h
  split at h <;> cases h <;> rfl

/-- A register is reached at its own address only. -/
theorem address_of_targetOf {addr : BitVec 20} {r : Reg} (h : targetOf addr = some (.reg r)) : addr = r.address := by
  by_cases ha : addr.toNat < 0x100
  · rw [targetOf_registers ha, Option.map_eq_some_iff] at h
    obtain ⟨r', hr', heq⟩ := h
    cases heq
    exact (BitVec.eq_of_toNat_eq (Reg.address_of_ofOffset hr')).symm
  · unfold targetOf at h
    simp only [ha, if_false] at h
    repeat' split at h
    all_goals simp at h

/-- A buffer is reached at each of its bus addresses. -/
theorem targetOf_inBuffers {addr : BitVec 20} (h : inBuffers addr.toNat) : ∃ b off, targetOf addr = some (.buf b off) := by
  obtain ⟨h1, h2⟩ | ⟨h1, h2⟩ | ⟨h1, h2⟩ := h
  · exact ⟨_, _, targetOf_ibuf h1 h2⟩
  · exact ⟨_, _, targetOf_obuf h1 h2⟩
  · exact ⟨_, _, targetOf_rbuf h1 h2⟩

/-- A buffer is reached at its bus addresses only. -/
theorem inBuffers_of_targetOf {addr : BitVec 20} {b : Buf} {off : Nat} (h : targetOf addr = some (.buf b off)) :
    inBuffers addr.toNat := by
  obtain ⟨hbase, hsize⟩ := targetOf_buf h
  unfold inBuffers
  cases b <;> simp [Buf.base, Buf.size] at hbase hsize <;> omega

/-- Where nothing stands, R65's first item holds, or the address lies between two registers. -/
theorem unmapped_of_targetOf {addr : BitVec 20} (h : targetOf addr = none) :
    (0x100 ≤ addr.toNat ∧ ¬ inBuffers addr.toNat) ∨
    (addr.toNat < 0x100 ∧ (addr.toNat % 4 ≠ 0 ∨ (0x44 ≤ addr.toNat ∧ addr.toNat ≤ 0x4F) ∨ 0x60 ≤ addr.toNat)) := by
  by_cases ha : addr.toNat < 0x100
  · rw [targetOf_registers ha, Option.map_eq_none_iff] at h
    exact .inr ⟨ha, Reg.ofOffset_eq_none h⟩
  · refine .inl ⟨by omega, fun hbuf => ?_⟩
    obtain ⟨b, off, hg⟩ := targetOf_inBuffers hbuf
    rw [hg] at h
    cases h

/-! ### SLVERR (R65) -/

/-- What the four items of R65 say where nothing stands. -/
theorem answersSlverr_of_unmapped {isWrite : Bool} {w : Width} {addr : BitVec 20} (h : targetOf addr = none) :
    AnswersSlverr isWrite w addr.toNat := by
  have range := addr.isLt
  obtain ⟨hlow, hbuf⟩ | ⟨hlow, hreserved⟩ := unmapped_of_targetOf h
  · refine .inl ?_
    unfold inBuffers at hbuf
    omega
  · unfold AnswersSlverr
    by_cases hw : w = .w32
    · simp only [hw, true_and]
      omega
    · exact .inr (.inl (.inl ⟨hlow, hw⟩))

/-- What R65 says of a read where a register or a buffer stands: the width and the alignment. -/
theorem answersSlverr_read_iff {w : Width} {addr : BitVec 20} {g : Target} (hg : targetOf addr = some g) :
    AnswersSlverr false w addr.toNat ↔ ¬ (g.acceptsRead w = true ∧ alignedFor w addr = true) := by
  unfold AnswersSlverr
  cases g with
  | reg r =>
    obtain rfl := address_of_targetOf hg
    have place := r.address_toNat
    cases w <;> simp [Target.acceptsRead] <;> omega
  | buf b off =>
    have place : inBuffers addr.toNat := inBuffers_of_targetOf hg
    unfold inBuffers at place
    cases w <;> simp [Target.acceptsRead, alignedFor] <;> omega

/-- What a write can change at all: the registers that are not read-only, and `IBUF` (R63). -/
def Target.writable : Target → Bool
  | .reg r => !r.readOnly
  | .buf .ibuf _ => true
  | .buf .obuf _ => false
  | .buf .rbuf _ => false

theorem Target.acceptsWrite_eq (g : Target) (w : Width) : g.acceptsWrite w = (g.writable && g.acceptsRead w) := by
  cases g with
  | reg r => cases w <;> rfl
  | buf b off => cases b <;> cases w <;> rfl

/-- R65's fourth item says what a write cannot change. -/
theorem Target.not_writable_iff {addr : BitVec 20} {g : Target} (hg : targetOf addr = some g) :
    g.writable = false ↔ addr.toNat = 0x0C ∨ addr.toNat = 0x10 ∨ addr.toNat = 0x14 ∨ addr.toNat = 0x40 ∨
      (0x20000 ≤ addr.toNat ∧ addr.toNat ≤ 0x30013) ∨ (0x40000 ≤ addr.toNat ∧ addr.toNat ≤ 0x4FFFF) := by
  cases g with
  | reg r =>
    obtain rfl := address_of_targetOf hg
    have place := r.address_toNat
    simp only [Target.writable, Bool.not_eq_false', Reg.readOnly_iff_address]
    omega
  | buf b off =>
    obtain ⟨hbase, hsize⟩ := targetOf_buf hg
    cases b <;> simp [Target.writable, Buf.base, Buf.size] at hbase hsize ⊢ <;> omega

/-- What R65 says of a write where a register or a buffer stands: writability, width and alignment. -/
theorem answersSlverr_write_iff {w : Width} {addr : BitVec 20} {g : Target} (hg : targetOf addr = some g) :
    AnswersSlverr true w addr.toNat ↔ ¬ (g.acceptsWrite w = true ∧ alignedFor w addr = true) := by
  have fourth : AnswersSlverr true w addr.toNat ↔ AnswersSlverr false w addr.toNat ∨ g.writable = false := by
    simp [AnswersSlverr, Target.not_writable_iff hg, or_assoc]
  rw [fourth, answersSlverr_read_iff hg, Target.acceptsWrite_eq]
  cases g.writable <;> simp

theorem slverr_read_iff (w : Width) (addr : BitVec 20) :
    (Access.read w addr).slverr = true ↔ AnswersSlverr false w addr.toNat := by
  cases hg : targetOf addr with
  | none => simp [Access.slverr, hg, answersSlverr_of_unmapped hg]
  | some g =>
    simp only [answersSlverr_read_iff hg, Access.slverr, hg, ← Bool.and_eq_true, Bool.not_eq_true', Bool.not_eq_true]

theorem slverr_write_iff (w : Width) (addr : BitVec 20) (v : Word) :
    (Access.write w addr v).slverr = true ↔ AnswersSlverr true w addr.toNat := by
  cases hg : targetOf addr with
  | none => simp [Access.slverr, hg, answersSlverr_of_unmapped hg]
  | some g =>
    simp only [answersSlverr_write_iff hg, Access.slverr, hg, ← Bool.and_eq_true, Bool.not_eq_true', Bool.not_eq_true]

/-- R65: an access that answers SLVERR stops the run. -/
theorem step_of_slverr {s : State} {a : Access} {rest : List Event} (hi : s.inputs = .access a :: rest)
    (hs : a.slverr = true) : step s = .fault .slverr := by
  simp [step_of_access hi, hostTurn, hs]

/-- Something stands at the address of an access that does not answer SLVERR. -/
theorem targetOf_of_not_answersSlverr {isWrite : Bool} {w : Width} {addr : BitVec 20}
    (h : ¬ AnswersSlverr isWrite w addr.toNat) : ∃ g, targetOf addr = some g :=
  Option.ne_none_iff_exists'.mp fun hg => h (answersSlverr_of_unmapped hg)

/-- A read outside R65's items is carried out. -/
theorem step_of_accepted_read {s : State} {rest : List Event} {w : Width} {addr : BitVec 20} {g : Target}
    (hi : s.inputs = .access (.read w addr) :: rest) (hg : targetOf addr = some g)
    (h : ¬ AnswersSlverr false w addr.toNat) : step s = .next (State.busRead { s with inputs := rest } w g) :=
  step_of_read hi hg (by rwa [← slverr_read_iff, Bool.not_eq_true] at h)

/-- A write outside R65's items is carried out. -/
theorem step_of_accepted_write {s : State} {rest : List Event} {w : Width} {addr : BitVec 20} {v : Word} {g : Target}
    (hi : s.inputs = .access (.write w addr v) :: rest) (hg : targetOf addr = some g)
    (h : ¬ AnswersSlverr true w addr.toNat) : step s = .next (State.busWrite { s with inputs := rest } w v g) :=
  step_of_write hi hg (by rwa [← slverr_write_iff w addr v, Bool.not_eq_true] at h)

/-! ### Writes -/

theorem Phase.isBusy_of_ne_idle {p : Phase} (h : p ≠ .idle) : p.isBusy = true := by
  simp [Phase.isBusy_eq_decide, h]

/-- R67: while a command runs, a write to anything but `STATUS` is dropped. -/
theorem State.storeTo_of_busy {s : State} (w : Width) (v : Word) {g : Target} (hbusy : s.phase ≠ .idle)
    (hg : g ≠ .reg .status) : s.storeTo w v g = { s with status := s.status.dropped } := by
  have busy := Phase.isBusy_of_ne_idle hbusy
  cases g with
  | reg r => cases r <;> simp_all [State.storeTo]
  | buf b off => simp [State.storeTo, busy]

/-- While IDLE a write to a buffer stores its bytes. -/
theorem State.storeTo_buf_of_idle {s : State} (w : Width) (v : Word) (b : Buf) (off : Nat) (hidle : s.phase = .idle) :
    s.storeTo w v (.buf b off) = s.memWrite b off (writtenBytes w v) := by
  simp [State.storeTo, hidle, Phase.isBusy]

theorem State.byte_memWrite (s : State) (b : Buf) (a : Nat) (bs : List Byte) {k : Nat} (hk : k < bs.length) :
    (s.memWrite b a bs).byte (b.base + a + k) = bs[k] := by
  simp [State.byte, State.memWrite, Memory.read_write_inside _ _ _ hk]

@[simp] theorem length_writtenBytes_w8 (v : Word) : (writtenBytes .w8 v).length = 1 := rfl
@[simp] theorem length_writtenBytes_w32 (v : Word) : (writtenBytes .w32 v).length = 4 := rfl

/-- R63, R64: an accepted write to `IBUF` while IDLE stores its bytes from its address on, and changes nothing else. -/
theorem step_write_ibuf {s : State} {rest : List Event} {w : Width} {addr : BitVec 20} {v : Word}
    (hi : s.inputs = .access (.write w addr v) :: rest) (hidle : s.phase = .idle) (hlo : 0x10000 ≤ addr.toNat)
    (hhi : addr.toNat ≤ 0x1FFFF) (hw : w = .w8 ∨ (w = .w32 ∧ addr.toNat % 4 = 0)) :
    ∃ t, step s = .next t ∧ (∀ k, (hk : k < (writtenBytes w v).length) → t.byte (addr.toNat + k) = (writtenBytes w v)[k])
      ∧ SameBytesOutside s t addr.toNat (writtenBytes w v).length ∧ t.regs = s.regs ∧ t.status = s.status
      ∧ t.phase = s.phase ∧ t.handle = s.handle ∧ t.inputs = rest ∧ t.resp = .okay := by
  have accepted : ¬ AnswersSlverr true w addr.toNat := by
    obtain rfl | ⟨rfl, hal⟩ := hw <;> simp [AnswersSlverr] <;> omega
  have place : Buf.ibuf.base + (addr.toNat - 0x10000) = addr.toNat := Nat.add_sub_cancel' hlo
  have store : State.storeTo { s with inputs := rest } w v _ = _ :=
    State.storeTo_buf_of_idle w v .ibuf (addr.toNat - 0x10000) hidle
  rw [step_of_accepted_write hi (targetOf_ibuf hlo hhi) accepted, State.busWrite, store]
  refine ⟨_, rfl, fun k hk => ?_, fun x hx => ?_, rfl, rfl, rfl, rfl, rfl, rfl⟩
  · have stored := State.byte_memWrite s .ibuf (addr.toNat - 0x10000) (writtenBytes w v) hk
    rwa [place] at stored
  · exact State.byte_memWrite_outside s .ibuf (addr.toNat - 0x10000) (writtenBytes w v) (by rwa [place])

/-! ### Reads -/

/-- R64, R66: what a read of a buffer is, where the stored bytes are read data. -/
theorem State.busRead_buf {s : State} (w : Width) {b : Buf} (off : Nat) (h : s.phase = .idle ∨ b = .ibuf) :
    s.busRead w (.buf b off) = { s with resp := .data (s.loadBuf b off w) } := by
  obtain hidle | rfl := h
  · cases b <;> simp [State.busRead, hidle, Phase.isBusy]
  · rfl

/-- R66: a read of `OBUF` or `RBUF` while a command runs draws a value. -/
theorem State.busRead_buf_of_busy {s : State} (w : Width) {b : Buf} (off : Nat) (hbusy : s.phase ≠ .idle)
    (hb : b ≠ .ibuf) :
    s.busRead w (.buf b off) = { s with resp := .data (anyValue s.draws w), draws := s.draws + 1 } := by
  have busy := Phase.isBusy_of_ne_idle hbusy
  cases b with
  | ibuf => exact absurd rfl hb
  | obuf => simp [State.busRead, busy]
  | rbuf => simp [State.busRead, busy]

/-- R63: a read of a buffer of 8 bits, or of 32 bits at a multiple of 4, is accepted. -/
theorem accepted_read_of_inBuffers {w : Width} {addr : BitVec 20} (h : inBuffers addr.toNat)
    (hw : w = .w8 ∨ (w = .w32 ∧ addr.toNat % 4 = 0)) : ¬ AnswersSlverr false w addr.toNat := by
  obtain ⟨b, off, hg⟩ := targetOf_inBuffers h
  rw [answersSlverr_read_iff hg, not_not]
  obtain rfl | ⟨rfl, hal⟩ := hw <;> simp [Target.acceptsRead, alignedFor, *]

/-- R66: an accepted read of a buffer whose bytes are readable. -/
theorem step_read_buffer {s : State} {rest : List Event} {w : Width} {addr : BitVec 20}
    (hi : s.inputs = .access (.read w addr) :: rest) (h : inBuffers addr.toNat)
    (hreadable : s.phase = .idle ∨ addr.toNat ≤ 0x1FFFF) (hw : w = .w8 ∨ (w = .w32 ∧ addr.toNat % 4 = 0)) :
    ∃ b off, b.base + off = addr.toNat ∧ step s = .next { s with inputs := rest, resp := .data (s.loadBuf b off w) } := by
  obtain ⟨b, off, hg⟩ := targetOf_inBuffers h
  obtain ⟨hbase, -⟩ := targetOf_buf hg
  have readable : s.phase = .idle ∨ b = .ibuf := hreadable.imp_right fun hlow => by
    cases b <;> simp [Buf.base] at hbase ⊢ <;> omega
  refine ⟨b, off, hbase.symm, ?_⟩
  rw [step_of_accepted_read hi hg (accepted_read_of_inBuffers h hw)]
  exact congrArg _ (State.busRead_buf (s := { s with inputs := rest }) w off readable)

/-! ### The statements about the bus -/

/-- Settles O12: the model's own test for SLVERR is R65's, and what passes it is carried out. -/
theorem slverrExactly : Obligations.SlverrExactly := by
  refine fun s rest w addr v => ⟨fun hi => ⟨fun h => ?_, fun h => ?_⟩, fun hi => ⟨fun h => ?_, fun h => ?_⟩⟩
  · exact step_of_slverr hi ((slverr_read_iff w addr).mpr h)
  · obtain ⟨g, hg⟩ := targetOf_of_not_answersSlverr h
    exact ⟨_, step_of_accepted_read hi hg h⟩
  · exact step_of_slverr hi ((slverr_write_iff w addr v).mpr h)
  · obtain ⟨g, hg⟩ := targetOf_of_not_answersSlverr h
    exact ⟨_, step_of_accepted_write hi hg h⟩

/-- Settles O17: only the address of `STATUS` reaches `STATUS`, and every other write is dropped. -/
theorem busyWritesDropped : Obligations.BusyWritesDropped := by
  intro s rest w addr v hi hbusy h haddr
  obtain ⟨g, hg⟩ := targetOf_of_not_answersSlverr h
  have notStatus : g ≠ .reg .status := by
    rintro rfl
    exact haddr (address_of_targetOf hg)
  have dropped : State.storeTo { s with inputs := rest } w v g = _ := State.storeTo_of_busy w v hbusy notStatus
  rw [step_of_accepted_write hi hg h, State.busWrite, dropped, Status.dropped]

/-- Settles O19: the written bytes are the four lanes. -/
theorem inputWordLanes : Obligations.InputWordLanes := by
  intro s rest addr v hi hidle hlo hhi hal
  obtain ⟨t, ht, hbytes, hframe⟩ := step_write_ibuf hi hidle hlo hhi (.inr ⟨rfl, hal⟩)
  exact ⟨t, ht, hbytes 0 (by simp), hbytes 1 (by simp), hbytes 2 (by simp), hbytes 3 (by simp), hframe⟩

/-- Settles O20: the one written byte is `v[7:0]`. -/
theorem inputByteWrite : Obligations.InputByteWrite := by
  intro s rest addr v hi hidle hlo hhi
  obtain ⟨t, ht, hbytes, hframe⟩ := step_write_ibuf hi hidle hlo hhi (.inl rfl)
  exact ⟨t, ht, hbytes 0 (by simp), hframe⟩

/-- Settles O21: the bytes at the buffer's offset are those at the bus address. -/
theorem bufferReads : Obligations.BufferReads := by
  refine fun s rest addr h hreadable => ⟨fun hi => ?_, fun hi hal => ?_⟩
  · obtain ⟨b, off, hplace, hstep⟩ := step_read_buffer hi h hreadable (.inl rfl)
    rw [hstep, State.loadBuf, hplace, BitVec.setWidth_eq_append (by decide)]
    rfl
  · obtain ⟨b, off, hplace, hstep⟩ := step_read_buffer hi h hreadable (.inr ⟨rfl, hal⟩)
    rw [hstep, State.loadBuf, hplace, ofLanes]

/-- Settles O22: from 0x20000 on the buffer is `OBUF` or `RBUF`. -/
theorem busyBufferReads : Obligations.BusyBufferReads := by
  intro s rest w addr hi hbusy h hlo hw
  obtain ⟨b, off, hg⟩ := targetOf_inBuffers h
  obtain ⟨hbase, hsize⟩ := targetOf_buf hg
  have notIbuf : b ≠ .ibuf := by
    rintro rfl
    simp [Buf.base, Buf.size] at hbase hsize
    omega
  rw [step_of_accepted_read hi hg (accepted_read_of_inBuffers h hw),
    State.busRead_buf_of_busy (s := { s with inputs := rest }) w off hbusy notIbuf]
  exact ⟨_, rfl⟩

end Sys2Proof.Machine
end

section
/-!
What commands leave in the buffers (20_memory.md, section 4: R70), and what stays fixed while one runs (R67): the bytes that
each command's rule writes, the operands, and the two address registers.
-/

namespace Sys2Proof

/-! ### The word of a decoded command (R90, R91) -/

theorem CommandWord.toWord_ofWord (v : Word) : (CommandWord.ofWord v).toWord = v :=
  BitVec.eq_of_getLsbD_eq fun n hn => by
    simp only [CommandWord.toWord, CommandWord.ofWord]
    -- `getLsbD_append` sees the fields only where the width is their sum
    change BitVec.getLsbD (w := 23 + 1 + 8) _ n = _
    simp only [BitVec.getLsbD_append, BitVec.getLsbD_extractLsb', BitVec.getLsbD_ofBool]
    by_cases h8 : n < 8
    · simp [h8]
    · by_cases h9 : n = 8
      · simp [h9]
      · have fields : ¬ n - 8 < 1 ∧ n - 8 - 1 < 23 ∧ 9 + (n - 8 - 1) = n := by omega
        simp [h8, fields]

theorem opcode_of_lookup {o : BitVec 8} {i : Instr} (h : opcodeMap.lookup o = some i) : i.opcode = o ∧ i.arg0 = false := by
  have rows : ∀ p ∈ opcodeMap, p.2.opcode = p.1 ∧ p.2.arg0 = false := by decide
  obtain ⟨l, l', hmap, -⟩ := List.lookup_eq_some_iff.mp h
  exact rows (o, i) (by simp [hmap])

/-- A legal word has the fields of the command it decodes to. -/
theorem CommandWord.of_decode {c : CommandWord} {i : Instr} (h : c.decode = .ok i) :
    c = { rsvd := 0#23, arg0 := i.arg0, opc := i.opcode } := by
  obtain ⟨rsvd, arg0, opc⟩ := c
  unfold CommandWord.decode at h
  split at h
  · cases h
  next hr =>
    obtain rfl : rsvd = 0#23 := not_not.mp hr
    split at h
    · next ho =>
      cases h
      cases ho
      rfl
    · split at h
      · cases h
      · next j hj =>
        split at h
        · cases h
        · next ha =>
          cases h
          obtain ⟨hopc, harg⟩ := opcode_of_lookup hj
          simp_all

theorem encode_of_decode {v : Word} {i : Instr} (h : decode v = .ok i) : encode i = v := by
  rw [encode, ← CommandWord.of_decode h, CommandWord.toWord_ofWord]

end Sys2Proof

namespace Sys2Proof.Machine

/-! ### What changes no register and no byte -/

/-- The register file and the bytes are as before; `STATUS`, the phase and the handle may differ. -/
def SameStore (s t : State) : Prop := t.regs = s.regs ∧ t.mem = s.mem ∧ t.resets = s.resets

section
variable {i : Instr} {s t u : State}

/-- What holds from `u` on holds from every state with the same registers and bytes. -/
theorem SameStore.of_start (h : SameStore u t) (hu : SameStore s u) : SameStore s t := by
  obtain ⟨hregs, hmem, hresets⟩ := h
  obtain ⟨hregs', hmem', hresets'⟩ := hu
  exact ⟨hregs.trans hregs', hmem.trans hmem', hresets.trans hresets'⟩

theorem SameStore.sameBytes (h : SameStore s t) : SameBytes s t := by
  obtain ⟨-, hmem, hresets⟩ := h
  exact State.byte_congr hmem hresets

theorem SameStore.keepsOtherRegs (h : SameStore s t) : KeepsOtherRegs i s t := .of_regs h.1

theorem SameStore.of_finish (h : finish u = .next t) (hu : SameStore s u) : SameStore s t := by
  cases h
  exact hu

theorem SameStore.of_raise {e : ErrCode} {d : DevSub} (h : raise e d u = .next t) (hu : SameStore s u) :
    SameStore s t := by
  cases h
  exact hu

theorem envRequest_sameStore {req : EnvReq} {k : Answer → State → Result} {refused : Bool}
    (h : envRequest i req k s refused = .next t) (hk : ∀ a u, k a u = .next t → SameStore u t) : SameStore s t := by
  obtain ⟨a, rest, -, -, h⟩ | ⟨-, rfl⟩ := envRequest_next h
  · exact (hk _ _ h).of_start ⟨rfl, rfl, rfl⟩
  · exact ⟨rfl, rfl, rfl⟩

/-! DEV_OPEN, DEV_WRITE and DEV_CLOSE. -/

theorem devOpenRefused_sameStore {a : Answer} (h : devOpenRefused a s = .next t) : SameStore s t :=
  .of_raise h ⟨rfl, rfl, rfl⟩

theorem devOpenConfigured_sameStore {name : List Byte} {a : Answer} (h : devOpenConfigured name a s = .next t) :
    SameStore s t := by
  unfold devOpenConfigured at h
  split at h
  · exact envRequest_sameStore h fun _ _ => devOpenRefused_sameStore
  · exact .of_finish h ⟨rfl, rfl, rfl⟩

theorem devOpenOpened_sameStore {name : List Byte} {a : Answer} (h : devOpenOpened name a s = .next t) :
    SameStore s t := by
  unfold devOpenOpened at h
  split at h
  · exact .of_raise h ⟨rfl, rfl, rfl⟩
  · exact envRequest_sameStore h fun _ _ => devOpenConfigured_sameStore

theorem devOpenRequest_sameStore (h : devOpenRequest s = .next t) : SameStore s t :=
  envRequest_sameStore h fun _ _ => devOpenOpened_sameStore

theorem devWriteAnswered_sameStore {a : Answer} (h : devWriteAnswered a s = .next t) : SameStore s t := by
  unfold devWriteAnswered at h
  split at h
  · exact .of_raise h ⟨rfl, rfl, rfl⟩
  · exact .of_finish h ⟨rfl, rfl, rfl⟩

theorem devCloseAnswered_sameStore {a : Answer} (h : devCloseAnswered a s = .next t) : SameStore s t :=
  .of_finish h ⟨rfl, rfl, rfl⟩

theorem transmit_sameStore {arg0 : Bool} {d : List Byte} (h : transmit arg0 d s = .next t) : SameStore s t := by
  obtain ⟨-, a, rest, -, -, h⟩ | ⟨-, -, rfl⟩ | ⟨-, rfl⟩ := transmit_next h
  · exact (devWriteAnswered_sameStore h).of_start ⟨rfl, rfl, rfl⟩
  · exact ⟨rfl, rfl, rfl⟩
  · exact ⟨rfl, rfl, rfl⟩

theorem execDevOpen_sameStore (h : execDevOpen s = .next t) : SameStore s t := by
  unfold execDevOpen at h
  split at h
  · exact envRequest_sameStore h fun _ _ => devOpenRequest_sameStore
  · exact devOpenRequest_sameStore h

theorem execDevWrite_sameStore {arg0 : Bool} (h : execDevWrite arg0 s = .next t) : SameStore s t := by
  unfold execDevWrite at h
  split at h
  · exact transmit_sameStore h
  · obtain ⟨-, rfl⟩ | ⟨-, h⟩ := withInput_next h
    · exact ⟨rfl, rfl, rfl⟩
    · exact transmit_sameStore h

theorem execDevClose_sameStore (h : execDevClose s = .next t) : SameStore s t := by
  unfold execDevClose at h
  split at h
  · exact envRequest_sameStore h fun _ _ => devCloseAnswered_sameStore
  · exact .of_finish h ⟨rfl, rfl, rfl⟩

/-- A waiting command goes on with an answer without touching registers and bytes, unless it is an answer to `Rx`, or to the
`Tx` of SEND_UDP. -/
theorem resume_next {req : EnvReq} {refused : Bool} {a : Answer} (h : resume i req refused a s = .next t) :
    SameStore s t ∨ devReadAnswered a s = .next t ∨ sendUdpAnswered a s = .next t := by
  cases req with
  | openDev name => exact .inl (devOpenOpened_sameStore h)
  | config name tun noPi => exact .inl (devOpenConfigured_sameStore h)
  | rx => exact .inr (.inl h)
  | tx d =>
    cases i
    case sendUdp => exact .inr (.inr h)
    all_goals exact .inl (devWriteAnswered_sameStore h)
  | close =>
    cases i
    case devOpen =>
      cases refused with
      | true => exact .inl (devOpenRefused_sameStore (a := a) h)
      | false => exact .inl (devOpenRequest_sameStore h)
    all_goals exact .inl (devCloseAnswered_sameStore (a := a) h)

/-! ### The bytes that a command writes (R70) -/

/-- From `s` to `t` the command `i` changed at most bytes of `OBUF[0 : OLEN]`, or of `RBUF[0 : RLEN]`, by the new `OLEN` and
`RLEN`; an encoding command the first, DEV_READ the second. -/
inductive WritesItsBytes (i : Instr) (s t : State) : Prop
  | none (h : SameBytes s t)
  | obuf (hi : writesReg i .olen = true) (h : SameBytesOutside s t 0x20000 t.regs.olen.toNat)
  | rbuf (hi : i = .devRead) (h : SameBytesOutside s t 0x40000 t.regs.rlen.toNat)

/-- No command writes below `OBUF`. -/
theorem WritesItsBytes.byte_below (h : WritesItsBytes i s t) {a : Nat} (ha : a < 0x20000) : t.byte a = s.byte a := by
  cases h with
  | none h => exact h a
  | obuf hi h => exact h a (.inl ha)
  | rbuf hi h => exact h a (.inl (by omega))

/-- What holds from `u` on holds from every state with the same bytes. -/
theorem WritesItsBytes.of_start (h : WritesItsBytes i u t) (hu : SameBytes s u) : WritesItsBytes i s t := by
  cases h with
  | none h => exact .none fun a => (h a).trans (hu a)
  | obuf hi h => exact .obuf hi fun a ha => (h a ha).trans (hu a)
  | rbuf hi h => exact .rbuf hi fun a ha => (h a ha).trans (hu a)

/-- An encoding command whose artifact's length fits in `OLEN`. -/
theorem WritesItsBytes.of_emit {x : Artifact} (hi : writesReg i .olen = true) (hx : x.bytes.length < 2 ^ 32)
    (h : SameStore (s.emit x) t) : WritesItsBytes i s t := by
  have olen : t.regs.olen.toNat = x.bytes.length := by
    rw [h.1, State.emit_regs, BitVec.toNat_ofNat, Nat.mod_eq_of_lt hx]
  refine .obuf hi fun a ha => ?_
  rw [olen] at ha
  exact (h.sameBytes a).trans (State.byte_emit_outside s x a ha)

theorem WritesItsBytes.of_finish (h : finish u = .next t) (hu : SameBytes s u) : WritesItsBytes i s t := by
  cases h
  exact .none hu

theorem WritesItsBytes.of_raise {e : ErrCode} {d : DevSub} (h : raise e d u = .next t) (hu : SameBytes s u) :
    WritesItsBytes i s t := by
  cases h
  exact .none hu

theorem withInput_writesItsBytes {k : List Byte → Result} (h : withInput s k = .next t)
    (hk : ∀ p, p.length ≤ Config.ibufSize → k p = .next t → WritesItsBytes i s t) : WritesItsBytes i s t := by
  obtain ⟨-, rfl⟩ | ⟨hl, h⟩ := withInput_next h
  · exact .none fun _ => rfl
  · exact hk _ (by simpa using hl) h

theorem withUdpPayload_writesItsBytes {k : List Byte → Result} (h : withUdpPayload s k = .next t)
    (hk : s.udpPayload.length ≤ Config.udpMaxPayload → k s.udpPayload = .next t → WritesItsBytes i s t) :
    WritesItsBytes i s t := by
  obtain ⟨-, rfl⟩ | ⟨-, -, rfl⟩ | ⟨hl, h⟩ := withUdpPayload_next h
  · exact .none fun _ => rfl
  · exact .none fun _ => rfl
  · exact hk (by simpa [State.udpPayload] using hl) h

/-- Only `Data` stores bytes, as many as `RLEN` says: not more than `RMAX`. -/
theorem devReadAnswered_writesItsBytes {a : Answer} (h : devReadAnswered a s = .next t) :
    WritesItsBytes .devRead s t := by
  cases a with
  | data d =>
    have fits : (d.take s.regs.rmax.toNat).length < 2 ^ 32 := (List.length_take_le _ _).trans_lt s.regs.rmax.isLt
    have rlen : t.regs.rlen.toNat = (d.take s.regs.rmax.toNat).length := by
      cases h
      exact (BitVec.toNat_ofNat _ _).trans (Nat.mod_eq_of_lt fits)
    refine .rbuf rfl fun x hx => ?_
    rw [rlen] at hx
    cases h
    exact State.byte_memWrite_outside s .rbuf 0 (d.take s.regs.rmax.toNat) hx
  | ok => exact .of_raise h fun _ => rfl
  | fail => exact .of_raise h fun _ => rfl

/-- The answer to SEND_UDP's `Tx` is followed by the results in `OBUF`, whatever it is. -/
theorem sendUdpAnswered_sameStore {a : Answer} (h : sendUdpAnswered a s = .next t) :
    SameStore (s.emit (s.udpDatagram s.udpPayload)) t := by
  unfold sendUdpAnswered at h
  split at h
  · exact .of_raise h ⟨rfl, rfl, rfl⟩
  · exact .of_finish h ⟨rfl, rfl, rfl⟩

/-! The commands. -/

theorem execCsum_writesItsBytes (h : execCsum s = .next t) : WritesItsBytes .csum s t :=
  withInput_writesItsBytes h fun _ _ h => .of_finish h fun _ => rfl

theorem execCsumUdp_writesItsBytes (h : execCsumUdp s = .next t) : WritesItsBytes .csumUdp s t :=
  withInput_writesItsBytes h fun _ _ h => .of_finish h fun _ => rfl

theorem execParseSrc_writesItsBytes (h : execParseSrc s = .next t) : WritesItsBytes .parseSrc s t :=
  withInput_writesItsBytes h fun _ _ h => by
    split at h
    · exact .of_raise h fun _ => rfl
    · exact .of_finish h fun _ => rfl

theorem execParseDst_writesItsBytes (h : execParseDst s = .next t) : WritesItsBytes .parseDst s t :=
  withInput_writesItsBytes h fun _ _ h => by
    split at h
    · exact .of_raise h fun _ => rfl
    · exact .of_finish h fun _ => rfl

theorem execIpEnc_writesItsBytes (h : execIpEnc s = .next t) : WritesItsBytes .ipEnc s t :=
  .of_emit rfl (by simp) (.of_finish h ⟨rfl, rfl, rfl⟩)

theorem execTcpEnc_writesItsBytes (h : execTcpEnc s = .next t) : WritesItsBytes .tcpEnc s t :=
  withInput_writesItsBytes h fun p hp h =>
    .of_emit (x := s.regs.tcpArtifact p) rfl (by simp at hp ⊢; omega) (.of_finish h ⟨rfl, rfl, rfl⟩)

theorem execUdpEnc_writesItsBytes (h : execUdpEnc s = .next t) : WritesItsBytes .udpEnc s t :=
  withUdpPayload_writesItsBytes h fun hp h =>
    .of_emit (x := s.regs.udpArtifact s.udpPayload) rfl (by simp at hp ⊢; omega) (.of_finish h ⟨rfl, rfl, rfl⟩)

theorem execSendUdp_writesItsBytes (h : execSendUdp s = .next t) : WritesItsBytes .sendUdp s t :=
  withUdpPayload_writesItsBytes h fun hp h => by
    have fits : (s.udpDatagram s.udpPayload).bytes.length < 2 ^ 32 := by
      simp at hp ⊢
      omega
    split at h
    · obtain ⟨a, rest, -, -, h⟩ | ⟨-, rfl⟩ := envRequest_next h
      · exact .of_emit rfl fits ((sendUdpAnswered_sameStore h).of_start ⟨rfl, rfl, rfl⟩)
      · exact .none fun _ => rfl
    · exact .of_emit rfl fits (.of_raise h ⟨rfl, rfl, rfl⟩)

theorem execDevRead_writesItsBytes (h : execDevRead s = .next t) : WritesItsBytes .devRead s t := by
  unfold execDevRead at h
  split at h
  · exact .of_raise h fun _ => rfl
  · split at h
    · obtain ⟨a, rest, -, -, h⟩ | ⟨-, rfl⟩ := envRequest_next h
      · exact (devReadAnswered_writesItsBytes h).of_start fun _ => rfl
      · exact .none fun _ => rfl
    · exact .of_raise h fun _ => rfl

/-- R70, for every command. -/
theorem exec_writesItsBytes (h : exec i s = .next t) : WritesItsBytes i s t := by
  cases i with
  | nop => exact .of_finish h fun _ => rfl
  | csum => exact execCsum_writesItsBytes h
  | csumUdp => exact execCsumUdp_writesItsBytes h
  | parseSrc => exact execParseSrc_writesItsBytes h
  | parseDst => exact execParseDst_writesItsBytes h
  | ipEnc => exact execIpEnc_writesItsBytes h
  | tcpEnc => exact execTcpEnc_writesItsBytes h
  | udpEnc => exact execUdpEnc_writesItsBytes h
  | sendUdp => exact execSendUdp_writesItsBytes h
  | devOpen => exact .none (execDevOpen_sameStore h).sameBytes
  | devRead => exact execDevRead_writesItsBytes h
  | devWrite arg0 => exact .none (execDevWrite_sameStore h).sameBytes
  | devClose => exact .none (execDevClose_sameStore h).sameBytes

/-! ### Steps while a command runs (R67) -/

theorem execParseSrc_phase (h : execParseSrc s = .next t) : t.phase = .idle := by
  obtain ⟨-, rfl⟩ | ⟨-, h⟩ := withInput_next h
  · rfl
  · split at h <;> (cases h; rfl)

theorem execParseDst_phase (h : execParseDst s = .next t) : t.phase = .idle := by
  obtain ⟨-, rfl⟩ | ⟨-, h⟩ := withInput_next h
  · rfl
  · split at h <;> (cases h; rfl)

/-- A step in which the command `j` goes on: it changes only registers of `j`'s row in R47 and `STATUS`, and no byte below
`OBUF`; if `j` is a PARSE command, the step is its commit. -/
structure GoesOn (j : Instr) (s t : State) : Prop where
  regs : KeepsOtherRegs j s t
  input : ∀ a < 0x20000, t.byte a = s.byte a
  parse : j = .parseSrc ∨ j = .parseDst → s.phase = .busy (encode j) ∧ t.phase = .idle

/-- A step without effect on registers and bytes is covered by NOP's row, which is empty. -/
theorem GoesOn.of_sameStore (h : SameStore s t) : GoesOn .nop s t where
  regs := h.keepsOtherRegs
  input a _ := h.sameBytes a
  parse := by simp

/-- What happens afterwards has no part in it. -/
theorem GoesOn.of_inputs {rest : List Event} (h : GoesOn i { s with inputs := rest } t) : GoesOn i s t where
  regs := h.regs.of_start rfl
  input := h.input
  parse := h.parse

theorem exec_goesOn (h : exec i s = .next t) (hphase : s.phase = .busy (encode i)) : GoesOn i s t where
  regs := exec_keepsOtherRegs h
  input _ ha := (exec_writesItsBytes h).byte_below ha
  parse := by
    rintro (rfl | rfl)
    · exact ⟨hphase, execParseSrc_phase h⟩
    · exact ⟨hphase, execParseDst_phase h⟩

theorem engineTurn_goesOn (h : engineTurn s = .next t) : ∃ j, GoesOn j s t := by
  obtain ⟨v, i, hphase, hdecode, h⟩ | ⟨v, x, -, -, rfl⟩ | ⟨-, rfl⟩ := engineTurn_next h
  · rw [← encode_of_decode hdecode] at hphase
    exact ⟨i, exec_goesOn h hphase⟩
  · exact ⟨.nop, .of_sameStore ⟨rfl, rfl, rfl⟩⟩
  · exact ⟨.nop, .of_sameStore ⟨rfl, rfl, rfl⟩⟩

theorem environmentTurn_goesOn {a : Answer} (h : environmentTurn a s = .next t) : ∃ j, GoesOn j s t := by
  obtain ⟨i, req, refused, -, -, h⟩ := environmentTurn_next h
  obtain h | h | h := resume_next h
  · exact ⟨.nop, .of_sameStore h⟩
  · exact ⟨.devRead,
      { regs := devReadAnswered_keepsOtherRegs h
        input := fun _ ha => (devReadAnswered_writesItsBytes h).byte_below ha
        parse := by simp }⟩
  · exact ⟨.sendUdp,
      { regs := sendUdpAnswered_keepsOtherRegs h
        input := fun x hx =>
          ((sendUdpAnswered_sameStore h).sameBytes x).trans (State.byte_emit_outside s _ x (.inl hx))
        parse := by simp }⟩

theorem State.busRead_sameStore (w : Width) (g : Target) : SameStore s (s.busRead w g) := by
  unfold State.busRead
  repeat' split
  all_goals exact ⟨rfl, rfl, rfl⟩

/-- R67: a host access cannot change registers or bytes while a command runs. -/
theorem hostTurn_sameStore {a : Access} (h : hostTurn a s = .next t) (hbusy : s.phase ≠ .idle) : SameStore s t := by
  obtain ⟨-, ⟨w, addr, g, -, -, rfl⟩ | ⟨w, addr, v, g, -, -, rfl⟩⟩ := hostTurn_next h
  · exact State.busRead_sameStore w g
  · by_cases hg : g = .reg .status
    · cases hg
      exact ⟨rfl, rfl, rfl⟩
    · rw [State.busWrite, State.storeTo_of_busy w v hbusy hg]
      exact ⟨rfl, rfl, rfl⟩

theorem step_goesOn (h : step s = .next t) (hbusy : s.phase ≠ .idle) (hreset : ∀ rest, s.inputs ≠ .reset :: rest) :
    ∃ j, GoesOn j s t := by
  obtain ⟨-, h⟩ | ⟨rest, -, h⟩ | ⟨a, rest, -, h⟩ | ⟨a, rest, -, h⟩ | ⟨rest, hi, -⟩ := step_next h
  · exact engineTurn_goesOn h
  · obtain ⟨j, hj⟩ := engineTurn_goesOn h
    exact ⟨j, hj.of_inputs⟩
  · exact ⟨.nop, (GoesOn.of_sameStore (hostTurn_sameStore h hbusy)).of_inputs⟩
  · obtain ⟨j, hj⟩ := environmentTurn_goesOn h
    exact ⟨j, hj.of_inputs⟩
  · exact absurd hi (hreset rest)

theorem writesReg_srcAddr (h : i ≠ .parseSrc) : writesReg i .srcAddr = false := by
  cases i <;> simp_all [writesReg]

theorem writesReg_dstAddr (h : i ≠ .parseDst) : writesReg i .dstAddr = false := by
  cases i <;> simp_all [writesReg]

theorem GoesOn.srcAddr (h : GoesOn i s t) :
    t.readReg .srcAddr = s.readReg .srcAddr ∨ (s.phase = .busy (encode .parseSrc) ∧ t.phase = .idle) := by
  by_cases hi : i = .parseSrc
  · subst hi
    exact .inr (h.parse (.inl rfl))
  · exact .inl (h.regs .srcAddr (by decide) (writesReg_srcAddr hi))

theorem GoesOn.dstAddr (h : GoesOn i s t) :
    t.readReg .dstAddr = s.readReg .dstAddr ∨ (s.phase = .busy (encode .parseDst) ∧ t.phase = .idle) := by
  by_cases hi : i = .parseDst
  · subst hi
    exact .inr (h.parse (.inr rfl))
  · exact .inl (h.regs .dstAddr (by decide) (writesReg_dstAddr hi))

end

/-! ### The statements about the buffers and the operands -/

/-- Settles O52: an address outside the range that the command writes keeps its byte. -/
theorem commandsWriteTheirBytes : Obligations.CommandsWriteTheirBytes := by
  intro i s t a h hne
  cases exec_writesItsBytes h with
  | none same => exact absurd (same a) hne
  | obuf hi outside => exact .inl ⟨hi, by_contra fun ha => hne (outside a (by omega))⟩
  | rbuf hi outside => exact .inr ⟨hi, by_contra fun ha => hne (outside a (by omega))⟩

/-- Settles O18: such a step is one in which a command goes on, and no row of R47 holds an operand but for the addresses of the
PARSE commands. -/
theorem operandsFixedWhileBusy : Obligations.OperandsFixedWhileBusy := by
  intro s t hbusy hreset h
  obtain ⟨j, hj⟩ := step_goesOn h hbusy hreset
  refine ⟨fun r hr => ?_, hj.srcAddr, hj.dstAddr, fun a _ ha => hj.input a (by omega)⟩
  have operand : r ≠ .status ∧ r.readOnly = false ∧ r ≠ .srcAddr ∧ r ≠ .dstAddr := by
    revert r
    decide
  obtain ⟨hstatus, hro, hsrc, hdst⟩ := operand
  exact hj.regs r hstatus (writesReg_of_hostWritten j hro hsrc hdst)

end Sys2Proof.Machine
end

section
/-!
Command words (30_encoding.md, section 1): the decoder and the encoder agree (R90, R91), and the decoder rejects exactly the
words of R92.
-/

namespace Sys2Proof

/-! ### Decoder and encoder -/

@[simp] theorem decode_encode (i : Instr) : decode (encode i) = .ok i := by
  cases i with
  | devWrite arg0 => cases arg0 <;> rfl
  | _ => rfl

theorem Instr.wellFormed_eq_true (i : Instr) : i.wellFormed = true := by cases i <;> rfl

/-- Settles O1. -/
theorem tableWordsDecode : Obligations.TableWordsDecode :=
  ⟨decode_encode .nop, decode_encode .csum, decode_encode .parseSrc, decode_encode .ipEnc, decode_encode .tcpEnc,
   decode_encode .udpEnc, decode_encode .sendUdp, decode_encode (.devWrite false), decode_encode (.devWrite true),
   decode_encode .devClose⟩

/-- Settles O2: a legal word has the fields of its command, and every command's word decodes to it. -/
theorem decodeEncodeAgree : Obligations.DecodeEncodeAgree := by
  intro w i
  constructor
  · exact fun h => ⟨i.wellFormed_eq_true, encode_of_decode h⟩
  · rintro ⟨-, rfl⟩
    exact decode_encode i

/-! ### Illegal words -/

theorem opcodeMap_lookup_eq_none {o : BitVec 8} : opcodeMap.lookup o = none ↔ o ∉ opcodeMap.map Prod.fst := by
  rw [List.lookup_eq_none_iff]
  simp [opcodeMap, not_or]

/-- R92: what `CommandWord.decode` rejects, by the fields of the word. -/
theorem CommandWord.decode_error_iff (c : CommandWord) :
    (∃ x, c.decode = .error x) ↔
      c.rsvd ≠ 0#23 ∨ c.opc ∉ devWriteOpcode :: opcodeMap.map Prod.fst ∨ (c.arg0 = true ∧ c.opc ≠ devWriteOpcode) := by
  unfold CommandWord.decode
  split
  · next hr => simp [hr]
  next hr =>
  split
  · next ho => simp [hr, ho]
  next ho =>
  split
  · next hl => simp [hr, ho, opcodeMap_lookup_eq_none.mp hl]
  next i hl =>
  have listed : c.opc ∈ opcodeMap.map Prod.fst := by
    by_contra hn
    simp [opcodeMap_lookup_eq_none.mpr hn] at hl
  split
  · next ha => simp [ho, ha]
  · next ha => simp [hr, ha, listed]

theorem CommandWord.rsvd_ofWord_eq_zero (v : Word) : (ofWord v).rsvd = 0#23 ↔ v.toNat / 512 = 0 := by
  rw [← BitVec.toNat_inj]
  simp [ofWord, BitVec.extractLsb'_toNat, Nat.shiftRight_eq_div_pow]
  omega

theorem CommandWord.arg0_ofWord_eq_true (v : Word) : (ofWord v).arg0 = true ↔ v.toNat / 256 % 2 = 1 := by
  simp [ofWord, BitVec.getLsbD, Nat.testBit_eq_decide_div_mod_eq]

theorem CommandWord.toNat_opc_ofWord (v : Word) : (ofWord v).opc.toNat = v.toNat % 256 := by
  simp [ofWord, BitVec.extractLsb'_toNat]

/-- The opcodes of R91, as the numbers that R92 lists. -/
theorem mem_opcodes_iff (o : BitVec 8) :
    o ∈ devWriteOpcode :: opcodeMap.map Prod.fst
      ↔ o.toNat ∈ [0x00, 0x01, 0x02, 0x08, 0x09, 0x10, 0x20, 0x30, 0x40, 0x50, 0x51, 0x52, 0x53] := by
  simp [devWriteOpcode, opcodeMap, ← BitVec.toNat_inj]
  omega

theorem illegalWord_iff_decode_error (v : Word) : Machine.IllegalWord v ↔ ∃ x, decode v = .error x := by
  rw [decode, CommandWord.decode_error_iff, mem_opcodes_iff, CommandWord.toNat_opc_ofWord, CommandWord.arg0_ofWord_eq_true,
    Ne, CommandWord.rsvd_ofWord_eq_zero, Ne, ← BitVec.toNat_inj, CommandWord.toNat_opc_ofWord]
  rfl

end Sys2Proof
end

section
/-!
The life of a command (30_encoding.md, section 2): acceptance (R93), the step that runs it (R92, R94), its commit or its wait
(R95, R96), and what ends a wait (R97).
-/

namespace Sys2Proof.Machine

/-! ### Acceptance (R93) -/

/-- R93: a word written to `CMD` while IDLE is accepted. -/
theorem step_write_cmd_of_idle {s : State} {v : Word} {rest : List Event}
    (hi : s.inputs = .access (.write .w32 0x00000#20 v) :: rest) (hidle : s.phase = .idle) :
    step s = .next { s.accept v with inputs := rest, resp := .okay } := by
  have store : State.storeTo { s with inputs := rest } .w32 v (.reg .cmd) = State.accept { s with inputs := rest } v := by
    simp [State.storeTo, hidle, Phase.isBusy]
  rw [step_write_register (r := .cmd) hi rfl, State.busWrite, store]
  rfl

/-- R93, R67: while a command runs, the word is dropped. -/
theorem step_write_cmd_of_busy {s : State} {v : Word} {rest : List Event}
    (hi : s.inputs = .access (.write .w32 0x00000#20 v) :: rest) (hbusy : s.phase ≠ .idle) :
    step s = .next { s with status := s.status.dropped, inputs := rest, resp := .okay } := by
  have store : State.storeTo { s with inputs := rest } .w32 v (.reg .cmd) = _ :=
    State.storeTo_of_busy .w32 v hbusy (by decide)
  rw [step_write_register (r := .cmd) hi rfl, State.busWrite, store]

/-- Settles O6. -/
theorem commandAcceptance : Obligations.CommandAcceptance :=
  fun _ _ _ hi => ⟨step_write_cmd_of_idle hi, step_write_cmd_of_busy hi⟩

/-! ### The engine's turn on an accepted word (R92, R94) -/

theorem engineTurn_of_legal {s : State} {v : Word} {i : Instr} (hp : s.phase = .busy v) (hd : decode v = .ok i) :
    engineTurn s = exec i s := by
  simp [engineTurn, hp, hd]

theorem engineTurn_of_illegal {s : State} {v : Word} {x : DecodeError} (hp : s.phase = .busy v)
    (hd : decode v = .error x) : engineTurn s = raise .eill .none s := by
  simp [engineTurn, hp, hd]

/-- Settles O4: both kinds of step are the engine's turn. -/
theorem stepRunsDecodedCommand : Obligations.StepRunsDecodedCommand := by
  intro s v hp
  refine ⟨fun i hd => ⟨fun rest hi => ?_, fun hi => ?_⟩, fun x hd => ⟨fun rest hi => ?_, fun hi => ?_⟩⟩
  · rw [step_of_engine hi, engineTurn_of_legal (s := { s with inputs := rest }) hp hd]
  · rw [step_of_nil hi, engineTurn_of_legal hp hd]
  · rw [step_of_engine hi, engineTurn_of_illegal (s := { s with inputs := rest }) hp hd]
  · rw [step_of_nil hi, engineTurn_of_illegal hp hd]

/-- Settles O5: the step after `withFetchWord` is the engine's turn on the accepted word. -/
theorem fetchedWordRunsNext : Obligations.FetchedWordRunsNext := by
  intro s i
  have word : BitVec.ofNat 32 ((encode i).toNat % 2 ^ 32) = encode i := by
    rw [Nat.mod_eq_of_lt (encode i).isLt, BitVec.ofNat_toNat, BitVec.setWidth_eq]
  rw [State.withFetchWord, word, step_of_engine rfl]
  exact engineTurn_of_legal rfl (decode_encode i)

/-- Settles O3: the decoder rejects the words of R92, and the engine's turn on a rejected word is the commit with EILL. -/
theorem illegalWordsCommitEill : Obligations.IllegalWordsCommitEill := by
  refine fun v => ⟨illegalWord_iff_decode_error v, fun hv s rest => ⟨fun hp hi => ?_, fun hp hi => ?_⟩⟩
  · exact ⟨_, step_write_cmd_of_idle hi hp, rfl, rfl, rfl⟩
  · obtain ⟨x, hx⟩ := (illegalWord_iff_decode_error v).mp hv
    rw [step_of_engine hi, engineTurn_of_illegal (s := { s with inputs := rest }) hp hx]
    exact ⟨_, rfl, State.committed_commit _ _ _, rfl, fun _ => rfl, rfl, ⟨rfl, rfl, rfl, rfl⟩, by simp, rfl⟩

/-! ### Commit or wait (R95, R96, R72) -/

/-- From `s` to `t` a command came to its commit, with a sub-cause exactly when the error is EDEV (R96, R222). -/
def Commits (s t : State) : Prop := ∃ e d, Committed s t e d ∧ (d ≠ .none ↔ e = .edev)

/-- At `t` the command `i` waits, and registers, bytes, `STATUS` and the handle are as at `s` (R95, R72). -/
structure WaitsUnseen (i : Instr) (s t : State) : Prop where
  phase : ∃ req refused, t.phase = .waitEnv i req refused
  status : t.status = s.status
  store : SameStore s t
  handle : t.handle = s.handle

section
variable {i : Instr} {s t u : State}

theorem Commits.phase (h : Commits s t) : t.phase = .idle := by
  obtain ⟨_, _, ⟨hphase, -⟩, -⟩ := h
  exact hphase

theorem Commits.of_raise {e : ErrCode} {d : DevSub} (h : raise e d u = .next t) (hu : u.status = s.status)
    (hd : d ≠ .none ↔ e = .edev) : Commits s t := by
  cases h
  exact ⟨e, d, ⟨rfl, by simp [Status.committed, hu]⟩, hd⟩

theorem Commits.of_finish (h : finish u = .next t) (hu : u.status = s.status) : Commits s t :=
  .of_raise (e := .none) (d := .none) h hu (by simp)

theorem withInput_commits {k : List Byte → Result} (h : withInput s k = .next t)
    (hk : ∀ p, k p = .next t → Commits s t) : Commits s t := by
  obtain ⟨-, rfl⟩ | ⟨-, h⟩ := withInput_next h
  · exact .of_raise rfl rfl (by decide)
  · exact hk _ h

theorem withUdpPayload_commits {k : List Byte → Result} (h : withUdpPayload s k = .next t)
    (hk : ∀ p, k p = .next t → Commits s t) : Commits s t :=
  withInput_commits h fun p h => by
    split at h
    · exact .of_raise h rfl (by decide)
    · exact hk p h

/-- What holds from the sent request on holds from the request's state. -/
theorem WaitsUnseen.of_send {req : EnvReq} {refused : Bool} {rest : List Event}
    (h : WaitsUnseen i { s.send i req refused with inputs := rest } t) : WaitsUnseen i s t where
  phase := h.phase
  status := h.status
  store := h.store.of_start ⟨rfl, rfl, rfl⟩
  handle := h.handle

/-- A request leads to a wait, or to what the answer leads to. -/
theorem envRequest_commits_or_waits {req : EnvReq} {k : Answer → State → Result} {refused : Bool}
    (h : envRequest i req k s refused = .next t)
    (hk : ∀ a u, k a u = .next t → Commits u t ∨ WaitsUnseen i u t) : Commits s t ∨ WaitsUnseen i s t := by
  obtain ⟨a, rest, -, -, h⟩ | ⟨-, rfl⟩ := envRequest_next h
  · exact (hk _ _ h).imp id .of_send
  · exact .inr ⟨⟨req, refused, rfl⟩, rfl, ⟨rfl, rfl, rfl⟩, rfl⟩

/-! The answers to requests (R185-R188, R200). -/

theorem devOpenRefused_commits {a : Answer} (h : devOpenRefused a s = .next t) : Commits s t :=
  .of_raise h rfl (by decide)

theorem devOpenConfigured_commits_or_waits {name : List Byte} {a : Answer}
    (h : devOpenConfigured name a s = .next t) : Commits s t ∨ WaitsUnseen .devOpen s t := by
  unfold devOpenConfigured at h
  split at h
  · exact envRequest_commits_or_waits h fun _ _ h => .inl (devOpenRefused_commits h)
  · exact .inl (.of_finish h rfl)

theorem devOpenOpened_commits_or_waits {name : List Byte} {a : Answer} (h : devOpenOpened name a s = .next t) :
    Commits s t ∨ WaitsUnseen .devOpen s t := by
  unfold devOpenOpened at h
  split at h
  · exact .inl (.of_raise h rfl (by decide))
  · exact envRequest_commits_or_waits h fun _ _ => devOpenConfigured_commits_or_waits

theorem devOpenRequest_commits_or_waits (h : devOpenRequest s = .next t) :
    Commits s t ∨ WaitsUnseen .devOpen s t :=
  envRequest_commits_or_waits h fun _ _ => devOpenOpened_commits_or_waits

theorem devReadAnswered_commits {a : Answer} (h : devReadAnswered a s = .next t) : Commits s t := by
  cases a with
  | data d => exact .of_finish h rfl
  | ok => exact .of_raise h rfl (by decide)
  | fail => exact .of_raise h rfl (by decide)

theorem devWriteAnswered_commits {a : Answer} (h : devWriteAnswered a s = .next t) : Commits s t := by
  unfold devWriteAnswered at h
  split at h
  · exact .of_raise h rfl (by decide)
  · exact .of_finish h rfl

theorem devCloseAnswered_commits {a : Answer} (h : devCloseAnswered a s = .next t) : Commits s t :=
  .of_finish h rfl

theorem sendUdpAnswered_commits {a : Answer} (h : sendUdpAnswered a s = .next t) : Commits s t := by
  unfold sendUdpAnswered at h
  split at h
  · exact .of_raise h (State.emit_status _ _) (by decide)
  · exact .of_finish h (State.emit_status _ _)

/-! The commands that ask nothing of the environment. -/

theorem execNop_commits (h : execNop s = .next t) : Commits s t := .of_finish h rfl

theorem execCsum_commits (h : execCsum s = .next t) : Commits s t :=
  withInput_commits h fun _ h => .of_finish h rfl

theorem execCsumUdp_commits (h : execCsumUdp s = .next t) : Commits s t :=
  withInput_commits h fun _ h => .of_finish h rfl

theorem execParseSrc_commits (h : execParseSrc s = .next t) : Commits s t :=
  withInput_commits h fun _ h => by
    split at h
    · exact .of_raise h rfl (by decide)
    · exact .of_finish h rfl

theorem execParseDst_commits (h : execParseDst s = .next t) : Commits s t :=
  withInput_commits h fun _ h => by
    split at h
    · exact .of_raise h rfl (by decide)
    · exact .of_finish h rfl

theorem execIpEnc_commits (h : execIpEnc s = .next t) : Commits s t := .of_finish h (State.emit_status _ _)

theorem execTcpEnc_commits (h : execTcpEnc s = .next t) : Commits s t :=
  withInput_commits h fun _ h => .of_finish h (State.emit_status _ _)

theorem execUdpEnc_commits (h : execUdpEnc s = .next t) : Commits s t :=
  withUdpPayload_commits h fun _ h => .of_finish h (State.emit_status _ _)

/-! The commands that do: where each sends its request, and that it commits elsewhere. -/

theorem transmit_of_open {arg0 : Bool} {d : List Byte} (ho : s.handle.isOpen = true) :
    transmit arg0 d s = envRequest (.devWrite arg0) (.tx d) devWriteAnswered s := if_pos ho

theorem transmit_commits {arg0 : Bool} {d : List Byte} (ho : ¬ s.handle.isOpen = true)
    (h : transmit arg0 d s = .next t) : Commits s t := by
  rw [transmit, if_neg ho] at h
  exact .of_raise h rfl (by decide)

theorem execDevRead_of_open (hl : s.regs.rmax.toNat ≤ Config.rbufSize) (ho : s.handle.isOpen = true) :
    execDevRead s = envRequest .devRead .rx devReadAnswered s := by
  rw [execDevRead, if_neg (Nat.not_lt.mpr hl), if_pos ho]

theorem execDevRead_commits (hreq : ¬ (s.regs.rmax.toNat ≤ Config.rbufSize ∧ s.handle.isOpen = true))
    (h : execDevRead s = .next t) : Commits s t := by
  unfold execDevRead at h
  split at h
  · exact .of_raise h rfl (by decide)
  next hl =>
  split at h
  · next ho => exact absurd ⟨Nat.not_lt.mp hl, ho⟩ hreq
  · exact .of_raise h rfl (by decide)

theorem execDevClose_of_open (ho : s.handle.isOpen = true) :
    execDevClose s = envRequest .devClose .close devCloseAnswered s := if_pos ho

theorem execDevClose_commits (ho : ¬ s.handle.isOpen = true) (h : execDevClose s = .next t) : Commits s t := by
  rw [execDevClose, if_neg ho] at h
  exact .of_finish h rfl

theorem execSendUdp_of_open (hl : s.regs.len.toNat ≤ Config.udpMaxPayload) (ho : s.handle.isOpen = true) :
    execSendUdp s = envRequest .sendUdp (.tx (s.udpDatagram s.udpPayload).bytes) sendUdpAnswered s := by
  have fits : s.regs.len.toNat ≤ Config.ibufSize := hl.trans (by decide)
  rw [execSendUdp, withUdpPayload, withInput_of_fits _ fits, if_neg (Nat.not_lt.mpr hl), if_pos ho, State.udpPayload]

theorem execSendUdp_commits (hreq : ¬ (s.regs.len.toNat ≤ Config.udpMaxPayload ∧ s.handle.isOpen = true))
    (h : execSendUdp s = .next t) : Commits s t := by
  obtain ⟨-, rfl⟩ | ⟨-, -, rfl⟩ | ⟨hl, h⟩ := withUdpPayload_next h
  · exact .of_raise rfl rfl (by decide)
  · exact .of_raise rfl rfl (by decide)
  · rw [if_neg fun ho => hreq ⟨hl, ho⟩] at h
    exact .of_raise h (State.emit_status _ _) (by decide)

theorem transmit_commits_or_waits {arg0 : Bool} {d : List Byte} (h : transmit arg0 d s = .next t) :
    Commits s t ∨ WaitsUnseen (.devWrite arg0) s t := by
  by_cases ho : s.handle.isOpen = true
  · rw [transmit_of_open ho] at h
    exact envRequest_commits_or_waits h fun _ _ h => .inl (devWriteAnswered_commits h)
  · exact .inl (transmit_commits ho h)

theorem execSendUdp_commits_or_waits (h : execSendUdp s = .next t) : Commits s t ∨ WaitsUnseen .sendUdp s t := by
  by_cases hreq : s.regs.len.toNat ≤ Config.udpMaxPayload ∧ s.handle.isOpen = true
  · obtain ⟨hl, ho⟩ := hreq
    rw [execSendUdp_of_open hl ho] at h
    exact envRequest_commits_or_waits h fun _ _ h => .inl (sendUdpAnswered_commits h)
  · exact .inl (execSendUdp_commits hreq h)

theorem execDevOpen_commits_or_waits (h : execDevOpen s = .next t) : Commits s t ∨ WaitsUnseen .devOpen s t := by
  unfold execDevOpen at h
  split at h
  · exact envRequest_commits_or_waits h fun _ _ => devOpenRequest_commits_or_waits
  · exact devOpenRequest_commits_or_waits h

theorem execDevRead_commits_or_waits (h : execDevRead s = .next t) : Commits s t ∨ WaitsUnseen .devRead s t := by
  by_cases hreq : s.regs.rmax.toNat ≤ Config.rbufSize ∧ s.handle.isOpen = true
  · obtain ⟨hl, ho⟩ := hreq
    rw [execDevRead_of_open hl ho] at h
    exact envRequest_commits_or_waits h fun _ _ h => .inl (devReadAnswered_commits h)
  · exact .inl (execDevRead_commits hreq h)

theorem execDevWrite_commits_or_waits {arg0 : Bool} (h : execDevWrite arg0 s = .next t) :
    Commits s t ∨ WaitsUnseen (.devWrite arg0) s t := by
  unfold execDevWrite at h
  split at h
  · exact transmit_commits_or_waits h
  · obtain ⟨-, rfl⟩ | ⟨-, h⟩ := withInput_next h
    · exact .inl (.of_raise rfl rfl (by decide))
    · exact transmit_commits_or_waits h

theorem execDevClose_commits_or_waits (h : execDevClose s = .next t) : Commits s t ∨ WaitsUnseen .devClose s t := by
  by_cases ho : s.handle.isOpen = true
  · rw [execDevClose_of_open ho] at h
    exact envRequest_commits_or_waits h fun _ _ h => .inl (devCloseAnswered_commits h)
  · exact .inl (execDevClose_commits ho h)

theorem exec_commits_or_waits (h : exec i s = .next t) : Commits s t ∨ WaitsUnseen i s t := by
  cases i with
  | nop => exact .inl (execNop_commits h)
  | csum => exact .inl (execCsum_commits h)
  | csumUdp => exact .inl (execCsumUdp_commits h)
  | parseSrc => exact .inl (execParseSrc_commits h)
  | parseDst => exact .inl (execParseDst_commits h)
  | ipEnc => exact .inl (execIpEnc_commits h)
  | tcpEnc => exact .inl (execTcpEnc_commits h)
  | udpEnc => exact .inl (execUdpEnc_commits h)
  | sendUdp => exact execSendUdp_commits_or_waits h
  | devOpen => exact execDevOpen_commits_or_waits h
  | devRead => exact execDevRead_commits_or_waits h
  | devWrite arg0 => exact execDevWrite_commits_or_waits h
  | devClose => exact execDevClose_commits_or_waits h

end

/-- Settles O7, by the cases of the command's rule: every path ends in `raise`, `finish` or a request. -/
theorem commandCommitsOrWaits : Obligations.CommandCommitsOrWaits := by
  intro i s t h
  obtain h | ⟨⟨req, refused, hphase⟩, hstatus, hstore, hhandle⟩ := exec_commits_or_waits h
  · exact .inl h
  · exact .inr ⟨req, refused, hphase, hstatus, hstore.1, hstore.sameBytes, hhandle⟩

/-! ### Late answers (R95, R180) -/

/-- Where `m` from `s` ends in a wait of `i` with nothing left to happen, taking an answer then gives what `m` gives when that
answer, and what follows it, stands at the end of the inputs. -/
def LateIsPrompt (i : Instr) (m : State → Result) (s : State) : Prop :=
  ∀ (t : State) (req : EnvReq) (refused : Bool) (a : Answer) (rest : List Event),
    m s = .next t → t.phase = .waitEnv i req refused → t.inputs = [] →
    takeAnswer req a (resume i req refused) { t with inputs := rest } = m { s with inputs := s.inputs ++ .answer a :: rest }

section
variable {i : Instr} {s : State}

/-- What commits does not wait. -/
theorem LateIsPrompt.of_commits {m : State → Result} (h : ∀ t, m s = .next t → Commits s t) : LateIsPrompt i m s := by
  intro t req refused a rest ht hphase
  rw [(h t ht).phase] at hphase
  cases hphase

/-- It is enough that `m` does the same as `m'` from `s`, whatever happens next. -/
theorem LateIsPrompt.congr {m m' : State → Result} (h : LateIsPrompt i m s)
    (hm : ∀ inputs, m' { s with inputs := inputs } = m { s with inputs := inputs }) : LateIsPrompt i m' s := by
  intro t req refused a rest ht hphase hinputs
  rw [hm]
  exact h t req refused a rest ((hm s.inputs).symm.trans ht) hphase hinputs

/-- A request whose answer is taken as `resume` takes it: it is answered by the first input, and then the rest of the command
decides, or nothing was left to happen and this request is the one that waits. -/
theorem LateIsPrompt.of_envRequest {m : State → Result} {req : EnvReq} {refused : Bool} (k : Answer → State → Result)
    (hm : ∀ inputs, m { s with inputs := inputs } = envRequest i req k { s with inputs := inputs } refused)
    (hresume : resume i req refused = k) (hk : ∀ a u, LateIsPrompt i (k a) u) : LateIsPrompt i m s := by
  intro t req' refused' a rest ht hphase hinputs
  rw [hm]
  obtain ⟨b, more, hs, hallows, hb⟩ | ⟨-, rfl⟩ := envRequest_next ((hm s.inputs).symm.trans ht)
  · rw [hk b _ t req' refused' a rest hb hphase hinputs,
      envRequest_of_answer (congrArg (· ++ .answer a :: rest) hs), takeAnswer, if_pos hallows]
    rfl
  · have hs : s.inputs = [] := hinputs
    cases hphase
    rw [envRequest_of_answer (a := a) (rest := rest) (by simp [hs]), hresume]
    rfl

/-! DEV_OPEN (R185): each of its four requests. -/

theorem devOpenConfigured_lateIsPrompt (name : List Byte) (a : Answer) :
    LateIsPrompt .devOpen (devOpenConfigured name a) s := by
  by_cases ha : a = .fail
  · exact .of_envRequest devOpenRefused (fun _ => if_pos ha) rfl fun _ _ => .of_commits fun _ => devOpenRefused_commits
  · exact .of_commits fun t h => .of_finish ((if_neg ha).symm.trans h) rfl

theorem devOpenOpened_lateIsPrompt (name : List Byte) (a : Answer) :
    LateIsPrompt .devOpen (devOpenOpened name a) s := by
  by_cases ha : a = .fail
  · exact .of_commits fun t h => .of_raise ((if_pos ha).symm.trans h) rfl (by decide)
  · exact .of_envRequest (devOpenConfigured name) (fun _ => if_neg ha) rfl fun _ _ => devOpenConfigured_lateIsPrompt name _

theorem devOpenRequest_lateIsPrompt : LateIsPrompt .devOpen devOpenRequest s :=
  .of_envRequest (req := .openDev s.regs.deviceName) (devOpenOpened s.regs.deviceName) (fun _ => rfl) rfl
    fun _ _ => devOpenOpened_lateIsPrompt _ _

theorem execDevOpen_lateIsPrompt : LateIsPrompt .devOpen execDevOpen s := by
  by_cases ho : s.handle.isOpen
  · exact .of_envRequest devOpenReleased (fun _ => if_pos ho) rfl fun _ _ => devOpenRequest_lateIsPrompt
  · exact devOpenRequest_lateIsPrompt.congr fun _ => if_neg ho

/-! The other commands that ask something of the environment (R186-R188, R200). -/

theorem execDevRead_lateIsPrompt : LateIsPrompt .devRead execDevRead s := by
  by_cases hreq : s.regs.rmax.toNat ≤ Config.rbufSize ∧ s.handle.isOpen = true
  · obtain ⟨hl, ho⟩ := hreq
    exact .of_envRequest devReadAnswered
      (fun inputs => execDevRead_of_open (s := { s with inputs := inputs }) hl ho) rfl
      fun _ _ => .of_commits fun _ => devReadAnswered_commits
  · exact .of_commits fun _ => execDevRead_commits hreq

theorem transmit_lateIsPrompt (arg0 : Bool) (d : List Byte) : LateIsPrompt (.devWrite arg0) (transmit arg0 d) s := by
  by_cases ho : s.handle.isOpen = true
  · exact .of_envRequest devWriteAnswered (fun inputs => transmit_of_open (s := { s with inputs := inputs }) ho) rfl
      fun _ _ => .of_commits fun _ => devWriteAnswered_commits
  · exact .of_commits fun _ => transmit_commits ho

theorem execDevWrite_lateIsPrompt (arg0 : Bool) : LateIsPrompt (.devWrite arg0) (execDevWrite arg0) s := by
  cases arg0 with
  | true => exact (transmit_lateIsPrompt true (s.memRead .obuf 0 s.regs.olen.toNat)).congr fun _ => rfl
  | false =>
    by_cases hl : s.regs.len.toNat ≤ Config.ibufSize
    · exact (transmit_lateIsPrompt false (s.memRead .ibuf 0 s.regs.len.toNat)).congr fun inputs =>
        withInput_of_fits (s := { s with inputs := inputs }) (transmit false · _) hl
    · exact .of_commits fun t h =>
        .of_raise ((withInput_of_long (transmit false · s) (Nat.not_le.mp hl)).symm.trans h) rfl (by decide)

theorem execDevClose_lateIsPrompt : LateIsPrompt .devClose execDevClose s := by
  by_cases ho : s.handle.isOpen = true
  · exact .of_envRequest devCloseAnswered (fun inputs => execDevClose_of_open (s := { s with inputs := inputs }) ho) rfl
      fun _ _ => .of_commits fun _ => devCloseAnswered_commits
  · exact .of_commits fun _ => execDevClose_commits ho

theorem execSendUdp_lateIsPrompt : LateIsPrompt .sendUdp execSendUdp s := by
  by_cases hreq : s.regs.len.toNat ≤ Config.udpMaxPayload ∧ s.handle.isOpen = true
  · obtain ⟨hl, ho⟩ := hreq
    exact .of_envRequest (req := .tx (s.udpDatagram s.udpPayload).bytes) sendUdpAnswered
      (fun inputs => execSendUdp_of_open (s := { s with inputs := inputs }) hl ho) rfl
      fun _ _ => .of_commits fun _ => sendUdpAnswered_commits
  · exact .of_commits fun _ => execSendUdp_commits hreq

theorem exec_lateIsPrompt (i : Instr) : LateIsPrompt i (exec i) s := by
  cases i with
  | nop => exact .of_commits fun _ => execNop_commits
  | csum => exact .of_commits fun _ => execCsum_commits
  | csumUdp => exact .of_commits fun _ => execCsumUdp_commits
  | parseSrc => exact .of_commits fun _ => execParseSrc_commits
  | parseDst => exact .of_commits fun _ => execParseDst_commits
  | ipEnc => exact .of_commits fun _ => execIpEnc_commits
  | tcpEnc => exact .of_commits fun _ => execTcpEnc_commits
  | udpEnc => exact .of_commits fun _ => execUdpEnc_commits
  | sendUdp => exact execSendUdp_lateIsPrompt
  | devOpen => exact execDevOpen_lateIsPrompt
  | devRead => exact execDevRead_lateIsPrompt
  | devWrite arg0 => exact execDevWrite_lateIsPrompt arg0
  | devClose => exact execDevClose_lateIsPrompt

end

theorem environmentTurn_of_wait {s : State} {i : Instr} {req : EnvReq} {refused : Bool}
    (hp : s.phase = .waitEnv i req refused) (a : Answer) :
    environmentTurn a s = takeAnswer req a (resume i req refused) s := by
  simp [environmentTurn, hp]

/-- Settles O9: the step that takes the answer is the environment's turn, and every request of a command goes on with its answer
as `resume` does. -/
theorem lateAnswerAsPromptAnswer : Obligations.LateAnswerAsPromptAnswer := by
  intro i s t req refused a rest h hphase hinputs
  rw [step_of_answer (a := a) (rest := rest) rfl, environmentTurn_of_wait (s := { t with inputs := rest }) hphase]
  exact exec_lateIsPrompt i t req refused a rest h hphase hinputs

/-! ### What ends a wait (R97) -/

/-- The phase, the handle and the requests sent are as before. -/
structure SameWait (s t : State) : Prop where
  phase : t.phase = s.phase
  handle : t.handle = s.handle
  sent : t.sent = s.sent

theorem State.busRead_sameWait (s : State) (w : Width) (g : Target) : SameWait s (s.busRead w g) := by
  unfold State.busRead
  repeat' split
  all_goals exact ⟨rfl, rfl, rfl⟩

/-- R67: a host access cannot end or begin a command while one runs. -/
theorem hostTurn_sameWait {a : Access} {s t : State} (h : hostTurn a s = .next t) (hbusy : s.phase ≠ .idle) :
    SameWait s t := by
  obtain ⟨-, ⟨w, addr, g, -, -, rfl⟩ | ⟨w, addr, v, g, -, -, rfl⟩⟩ := hostTurn_next h
  · exact s.busRead_sameWait w g
  · by_cases hg : g = .reg .status
    · cases hg
      exact ⟨rfl, rfl, rfl⟩
    · rw [State.busWrite, State.storeTo_of_busy w v hbusy hg]
      exact ⟨rfl, rfl, rfl⟩

theorem engineTurn_of_wait {s : State} {i : Instr} {req : EnvReq} {refused : Bool}
    (hp : s.phase = .waitEnv i req refused) : engineTurn s = .next s := by
  simp [engineTurn, hp]

/-- Settles O10: the engine has nothing to do in a wait, and a host access changes at most `STATUS` and the bus response. -/
theorem waitEndsOnlyByAnswerOrReset : Obligations.WaitEndsOnlyByAnswerOrReset := by
  intro s t i req refused hp h
  obtain ⟨-, h⟩ | ⟨rest, -, h⟩ | ⟨a, rest, -, h⟩ | ⟨a, rest, hi, -⟩ | ⟨rest, hi, -⟩ := step_next h
  · cases (engineTurn_of_wait hp).symm.trans h
    exact .inr (.inr ⟨hp, rfl, rfl, fun _ => rfl, rfl⟩)
  · cases (engineTurn_of_wait (s := { s with inputs := rest }) hp).symm.trans h
    exact .inr (.inr ⟨hp, rfl, rfl, fun _ => rfl, rfl⟩)
  · have hbusy : s.phase ≠ .idle := by simp [hp]
    obtain ⟨hphase, hhandle, hsent⟩ := hostTurn_sameWait (s := { s with inputs := rest }) h hbusy
    have store := hostTurn_sameStore (s := { s with inputs := rest }) h hbusy
    exact .inr (.inr ⟨hphase.trans hp, hhandle, store.1, store.sameBytes, hsent⟩)
  · exact .inl ⟨a, rest, hi⟩
  · exact .inr (.inl ⟨rest, hi⟩)

end Sys2Proof.Machine
end

section
/-!
The byte sequences of 30_encoding.md, sections 3 and 4: the IPv4 header (R101), the configuration record (R105), and what IP_ENC
reads (R99).
-/

namespace Sys2Proof.Machine

/-- Settles O37: the header of R143 with its bytes 10 and 11 replaced. -/
theorem ipHeaderBytes : Obligations.IpHeaderBytes := by
  intro id src dst proto plen ttl
  have total : mod16 (20 + plen) = BitVec.ofNat 16 ((20 + plen) % 2 ^ 16) :=
    BitVec.eq_of_toNat_eq (by simp [mod16])
  rw [← total]
  rfl

/-- Settles O42: name, flags and padding, one after the other. -/
theorem configRecordBytes : Obligations.ConfigRecordBytes := by
  intro name hname
  have flags : configRecord name = name ++ ([0x01#8, 0x10#8] ++ List.replicate 22 0x00#8) :=
    List.append_assoc _ _ _
  have padding : (configRecord name).drop 18 = ((configRecord name).drop 16).drop 2 := by rw [List.drop_drop]
  rw [padding, flags, ← hname, List.take_left, List.drop_left]
  exact ⟨by simp [hname], rfl, rfl, rfl⟩

theorem State.ipArtifact_congr {s s' : State} (hid : s.ipId = s'.ipId) (hsrc : s.regs.srcAddr = s'.regs.srcAddr)
    (hdst : s.regs.dstAddr = s'.regs.dstAddr) (hcfg : s.regs.ipcfg = s'.regs.ipcfg) (hplen : s.regs.plen = s'.regs.plen) :
    s.ipArtifact = s'.ipArtifact := by
  simp only [State.ipArtifact, Regs.proto, Regs.ttl, Regs.payloadLen, hid, hsrc, hdst, hcfg, hplen]

/-- Settles O41: the three results are the parts of the artifact, which is the same in both states. -/
theorem ipEncReadsOnlyItsOperands : Obligations.IpEncReadsOnlyItsOperands := by
  intro s s' hid hsrc hdst hcfg hplen
  have same := State.ipArtifact_congr hid hsrc hdst hcfg hplen
  have bytes : ∀ u : State, ((u.emit u.ipArtifact).commit .none .none).memRead .obuf 0 20 = u.ipArtifact.bytes :=
    fun u => u.memRead_emit u.ipArtifact
  refine ⟨_, _, rfl, rfl, ?_, ?_, ?_⟩
  · simp [same]
  · simp [same]
  · rw [bytes, bytes, same]

end Sys2Proof.Machine
end

section
/-!
The checksum functions (40_checksum.md, sections 1 and 3): what `fold` gives, when checksums agree, and what the stored
checksum of a header or segment sums to; and the two commands that expose them (section 2: CSUM, CSUM_UDP).
-/

namespace Sys2Proof.Machine

/-! ### `Fold` (R122) -/

/-- One turn of the loop, by its arithmetic. -/
theorem foldTurn_eq (s : Nat) : (s >>> 16) + (s &&& 0xFFFF) = s / 0x10000 + s % 0x10000 := by
  rw [Nat.shiftRight_eq_div_pow, show (0xFFFF : Nat) = 2 ^ 16 - 1 from rfl, Nat.and_two_pow_sub_one_eq_mod]

theorem foldLoop_of_le {s : Nat} (fuel : Nat) (h : s ≤ 0xFFFF) : foldLoop fuel s = s := by
  cases fuel with
  | zero => rfl
  | succ fuel => rw [foldLoop, if_neg (Nat.not_lt.mpr h)]

theorem foldLoop_of_gt {s : Nat} (fuel : Nat) (h : ¬ s ≤ 0xFFFF) :
    foldLoop (fuel + 1) s = foldLoop fuel (s / 0x10000 + s % 0x10000) := by
  rw [foldLoop, if_pos (Nat.not_le.mp h), foldTurn_eq]

/-- Every turn keeps the residue, since 0x10000 is 1 modulo 0xFFFF, and does not come to 0. -/
theorem foldLoop_residue (fuel s : Nat) :
    (foldLoop fuel s = 0 ↔ s = 0) ∧ foldLoop fuel s % 0xFFFF = s % 0xFFFF := by
  induction fuel generalizing s with
  | zero => simp [foldLoop]
  | succ fuel ih =>
    by_cases hs : s ≤ 0xFFFF
    · simp [foldLoop_of_le _ hs]
    · have rest := ih (s / 0x10000 + s % 0x10000)
      rw [foldLoop_of_gt fuel hs]
      omega

/-- Every turn makes a sum above 0xFFFF smaller. -/
theorem foldLoop_le {fuel s : Nat} (h : s ≤ fuel + 0xFFFF) : foldLoop fuel s ≤ 0xFFFF := by
  induction fuel generalizing s with
  | zero => simpa [foldLoop] using h
  | succ fuel ih =>
    by_cases hs : s ≤ 0xFFFF
    · rwa [foldLoop_of_le _ hs]
    · rw [foldLoop_of_gt fuel hs]
      exact ih (by omega)

/-- Below 2^32 the first turn gives at most 0x1FFFE, and the second at most 0xFFFF. -/
theorem foldLoop_two_le {s : Nat} (h : s < 2 ^ 32) : foldLoop 2 s ≤ 0xFFFF := by
  by_cases hs : s ≤ 0xFFFF
  · rwa [foldLoop_of_le _ hs]
  · rw [foldLoop_of_gt 1 hs]
    by_cases ht : s / 0x10000 + s % 0x10000 ≤ 0xFFFF
    · rwa [foldLoop_of_le _ ht]
    · rw [foldLoop_of_gt 0 ht, foldLoop]
      omega

theorem fold_le (s : Nat) : fold s ≤ 0xFFFF := foldLoop_le (Nat.le_add_right s _)

/-- Settles O23: the loop keeps the residue, and ends at or below 0xFFFF. -/
theorem foldIsResidue : Obligations.FoldIsResidue := fun s => by
  obtain ⟨hzero, hmod⟩ : (fold s = 0 ↔ s = 0) ∧ fold s % 0xFFFF = s % 0xFFFF := foldLoop_residue s s
  exact ⟨hzero, fun hs => ⟨by omega, fold_le s, hmod⟩⟩

/-- What determines `Fold` (R128 item 1). -/
theorem eq_fold {r s : Nat} (hle : r ≤ 0xFFFF) (hzero : r = 0 ↔ s = 0) (hmod : r % 0xFFFF = s % 0xFFFF) : r = fold s := by
  have hf := foldIsResidue s
  omega

/-- The largest value stands for the positive multiples of 0xFFFF. -/
theorem fold_eq_ffff_iff (s : Nat) : fold s = 0xFFFF ↔ 0 < s ∧ s % 0xFFFF = 0 := by
  have hf := foldIsResidue s
  omega

theorem fold_eq_fold_iff (s s' : Nat) :
    fold s = fold s' ↔ (s = 0 ∧ s' = 0) ∨ (0 < s ∧ 0 < s' ∧ s % 0xFFFF = s' % 0xFFFF) := by
  have hs := foldIsResidue s
  have hs' := foldIsResidue s'
  omega

/-- The step of R129's running sum keeps it folded. -/
theorem fold_add_endAround (s : Nat) (w : Half) :
    (if 0xFFFF < fold s + w.toNat then fold s + w.toNat - 0xFFFF else fold s + w.toNat) = fold (s + w.toNat) := by
  have hs := foldIsResidue s
  have hw := w.isLt
  split <;> exact eq_fold (by omega) (by omega) (by omega)

/-- Settles O24: two turns finish, and what the finished loop gives is determined. -/
theorem foldLoopsAtMostTwice : Obligations.FoldLoopsAtMostTwice := fun s hs => by
  obtain ⟨hzero, hmod⟩ := foldLoop_residue 2 s
  exact (eq_fold (foldLoop_two_le hs) hzero hmod).symm

/-! ### `Words` and `Sum16` (R120, R121) -/

theorem words_append {m : List Byte} (hm : m.length % 2 = 0) (n : List Byte) : words (m ++ n) = words m ++ words n := by
  induction m using words.induct with
  | case1 => rfl
  | case2 b => simp at hm
  | case3 a b m ih =>
    simp only [List.length_cons] at hm
    simp [words, ih (by omega)]

theorem words_pad {m : List Byte} (hm : m.length % 2 = 1) : words (m ++ [0x00#8]) = words m := by
  induction m using words.induct with
  | case1 => simp at hm
  | case2 b => rfl
  | case3 a b m ih =>
    simp only [List.length_cons] at hm
    simp [words, ih (by omega)]

theorem length_words (m : List Byte) : (words m).length = (m.length + 1) / 2 := by
  induction m using words.induct with
  | case1 => rfl
  | case2 b => simp [words]
  | case3 a b m ih =>
    simp only [words, List.length_cons, ih]
    omega

theorem sum16_append {m : List Byte} (hm : m.length % 2 = 0) (n : List Byte) : sum16 (m ++ n) = sum16 m + sum16 n := by
  simp [sum16, words_append hm]

theorem sum16_eq_zero_iff (m : List Byte) : sum16 m = 0 ↔ ∀ w ∈ words m, w = 0#16 := by
  simp [sum16, List.sum_eq_zero_iff, ← BitVec.toNat_inj]

theorem sum16_congr {m m' : List Byte} (h : (words m).Perm (words m')) : sum16 m = sum16 m' :=
  (h.map BitVec.toNat).sum_eq

/-- R123: no word is above 0xFFFF. -/
theorem sum16_le (m : List Byte) : sum16 m ≤ (m.length + 1) / 2 * 0xFFFF := by
  have small : ∀ n ∈ (words m).map BitVec.toNat, n ≤ 0xFFFF := by
    simp only [List.mem_map]
    rintro _ ⟨w, -, rfl⟩
    exact Nat.le_of_lt_succ w.isLt
  simpa [sum16, length_words] using List.sum_le_card_nsmul _ _ small

/-- R123: the sum of the largest checksum input, and of every smaller one, fits in `ACC`. -/
theorem toNat_ofNat_sum16 {m : List Byte} (h : m.length ≤ 65568) : (BitVec.ofNat 32 (sum16 m)).toNat = sum16 m := by
  have bound := sum16_le m
  rw [BitVec.toNat_ofNat]
  exact Nat.mod_eq_of_lt (by omega)

@[simp] theorem sum16_be16 (v : Half) : sum16 (be16 v) = v.toNat := by
  have halves : v.extractLsb' 8 8 ++ v.extractLsb' 0 8 = v :=
    (BitVec.extractLsb'_append_extractLsb'_eq_extractLsb' (by decide)).trans BitVec.extractLsb'_eq_self
  simp [sum16, be16, words, halves]

/-- Settles O29: pairs of bytes are cut off the front. -/
theorem oddBytePadded : Obligations.OddBytePadded := fun _ n =>
  ⟨fun hm => (words_pad hm).symm, fun hm => sum16_append hm n⟩

/-- R129's running sum, begun at the folded sum of what came before. -/
theorem foldl_endAround (ws : List Half) (s : Nat) :
    ws.foldl (fun s w => if 0xFFFF < s + w.toNat then s + w.toNat - 0xFFFF else s + w.toNat) (fold s)
      = fold (s + (ws.map BitVec.toNat).sum) := by
  induction ws generalizing s with
  | nil => rfl
  | cons w ws ih => rw [List.foldl_cons, fold_add_endAround, ih, List.map_cons, List.sum_cons, Nat.add_assoc]

/-- Settles O28, by induction on the words. -/
theorem endAroundCarryAgrees : Obligations.EndAroundCarryAgrees := fun m => by
  have run := foldl_endAround (words m) 0
  rwa [Nat.zero_add] at run

/-! ### `Checksum` (R124, R125) -/

theorem toNat_checksum (m : List Byte) : (checksum m).toNat = 0xFFFF - fold (sum16 m) := by
  have hf := fold_le (sum16 m)
  rw [checksum, BitVec.toNat_not, BitVec.toNat_ofNat]
  omega

theorem checksum_eq_checksum_iff (m m' : List Byte) : checksum m = checksum m' ↔ fold (sum16 m) = fold (sum16 m') := by
  have hf := fold_le (sum16 m)
  have hf' := fold_le (sum16 m')
  rw [← BitVec.toNat_inj, toNat_checksum, toNat_checksum]
  omega

theorem checksum_congr {m m' : List Byte} (h : sum16 m = sum16 m') : checksum m = checksum m' := by
  rw [checksum, checksum, h]

theorem checksum_eq_ffff_iff (m : List Byte) : checksum m = 0xFFFF#16 ↔ fold (sum16 m) = 0 := by
  have hf := fold_le (sum16 m)
  rw [← BitVec.toNat_inj, toNat_checksum, BitVec.toNat_ofNat]
  omega

theorem checksum_eq_zero_iff (m : List Byte) : checksum m = 0x0000#16 ↔ fold (sum16 m) = 0xFFFF := by
  have hf := fold_le (sum16 m)
  rw [← BitVec.toNat_inj, toNat_checksum, BitVec.toNat_ofNat]
  omega

/-- Settles O25: the complements of the extreme values of `Fold`. -/
theorem checksumExtremes : Obligations.ChecksumExtremes := fun m => by
  obtain ⟨hzero, -⟩ := foldIsResidue (sum16 m)
  exact ⟨by rw [checksum_eq_ffff_iff, hzero, sum16_eq_zero_iff], by rw [checksum_eq_zero_iff, fold_eq_ffff_iff]⟩

/-- Settles O26: checksums agree where the folded sums do. -/
theorem checksumEqualIff : Obligations.ChecksumEqualIff := fun m m' => by
  rw [checksum_eq_checksum_iff, fold_eq_fold_iff]

/-- The addresses stand at an even place, and each is two whole words (C2). -/
theorem sum16_ipHdr0_swap (id : Half) (src dst : Word) (proto : Byte) (plen : Nat) (ttl : Byte) :
    sum16 (ipHdr0 id dst src proto plen ttl) = sum16 (ipHdr0 id src dst proto plen ttl) := by
  unfold ipHdr0
  generalize hfront : _ ++ [0x00#8, 0x00#8] = front
  have even : front.length % 2 = 0 := by simp [← hfront]
  have even_address (v : Word) : (front ++ be32 v).length % 2 = 0 := by
    rw [List.length_append, length_be32]
    omega
  rw [sum16_append (even_address _), sum16_append even, sum16_append (even_address _), sum16_append even,
    Nat.add_right_comm]

/-- Settles O27: the sum is the same, so the checksum is. -/
theorem checksumIgnoresWordOrder : Obligations.ChecksumIgnoresWordOrder := by
  refine ⟨fun m m' h => checksum_congr (sum16_congr h), fun s t u ht hu => ?_⟩
  have swapped := sum16_ipHdr0_swap s.ipId s.regs.srcAddr s.regs.dstAddr s.regs.proto s.regs.payloadLen s.regs.ttl
  cases ht
  cases hu
  exact ⟨congrArg zext32 (checksum_congr swapped), congrArg (BitVec.ofNat 32) swapped⟩

/-! ### A checksum in its field (R128 items 5 and 6)

An artifact is `a ++ be16 c ++ b`: the bytes before its checksum field, the field, and the bytes after it. -/

/-- The field adds its value to the sum with the field zeroed. -/
theorem sum16_field {a : List Byte} (ha : a.length % 2 = 0) (c : Half) (b : List Byte) :
    sum16 (a ++ be16 c ++ b) = sum16 (a ++ [0x00#8, 0x00#8] ++ b) + c.toNat := by
  have zero : sum16 [0x00#8, 0x00#8] = 0 := rfl
  rw [List.append_assoc, List.append_assoc, sum16_append ha, sum16_append ha, sum16_append (by simp), sum16_append (by simp),
    sum16_be16, zero]
  omega

/-- A stored checksum verifies: sum and checksum together make a positive multiple of 0xFFFF. -/
theorem fold_add_checksum (m : List Byte) : fold (sum16 m + (checksum m).toNat) = 0xFFFF := by
  have hs := foldIsResidue (sum16 m)
  have hc := toNat_checksum m
  rw [fold_eq_ffff_iff]
  omega

/-- So does a substituted one, since 0xFFFF is 0 modulo 0xFFFF. -/
theorem fold_add_udpSubst (m : List Byte) : fold (sum16 m + (udpSubst (checksum m)).toNat) = 0xFFFF := by
  by_cases hc : checksum m = 0#16
  · obtain ⟨hpos, hmod⟩ := (checksumExtremes m).2.mp hc
    rw [udpSubst, if_pos hc, fold_eq_ffff_iff, BitVec.toNat_ofNat]
    omega
  · rw [udpSubst, if_neg hc, fold_add_checksum]

/-- What stands in the field. -/
theorem take_drop_field {a : List Byte} {n : Nat} (ha : a.length = n) (c : Half) (b : List Byte) :
    ((a ++ be16 c ++ b).drop n).take 2 = be16 c := by
  rw [List.append_assoc, List.drop_left' ha]
  rfl

/-- The artifact with its field zeroed. -/
theorem take_append_drop_field {a : List Byte} {n : Nat} (ha : a.length = n) (c : Half) (b : List Byte) :
    (a ++ be16 c ++ b).take n ++ [0x00#8, 0x00#8] ++ (a ++ be16 c ++ b).drop (n + 2) = a ++ [0x00#8, 0x00#8] ++ b := by
  rw [← List.drop_drop, List.append_assoc a, List.take_left' ha, List.drop_left' ha]
  rfl

/-! The three artifacts in this form, with the field zeroed and with the checksum in it. -/

theorem ipHdr0_eq_field (id : Half) (src dst : Word) (proto : Byte) (plen : Nat) (ttl : Byte) :
    ipHdr0 id src dst proto plen ttl = slice (ipHdr0 id src dst proto plen ttl) 0 10 ++ [0x00#8, 0x00#8]
      ++ slice (ipHdr0 id src dst proto plen ttl) 12 20 := rfl

theorem Regs.tcpHdr0_eq_field (g : Regs) :
    g.tcpHdr0 = slice g.tcpHdr0 0 16 ++ [0x00#8, 0x00#8] ++ slice g.tcpHdr0 18 20 := rfl

theorem udpHdr0_eq_field (sp dp : Half) (n : Nat) :
    udpHdr0 sp dp n = slice (udpHdr0 sp dp n) 0 6 ++ [0x00#8, 0x00#8] := rfl

theorem Regs.tcpArtifact_bytes (g : Regs) (p : List Byte) :
    (g.tcpArtifact p).bytes = slice g.tcpHdr0 0 16
      ++ be16 (checksum (pseudo g.srcAddr g.dstAddr 6#8 (20 + p.length) ++ g.tcpHdr0 ++ p))
      ++ (slice g.tcpHdr0 18 20 ++ p) := List.append_assoc _ _ _

/-- Settles O30: the checksum in the field adds to the sum with the field zeroed. -/
theorem verificationSums : Obligations.VerificationSums := by
  refine ⟨fun id src dst proto plen ttl => ?_, fun g p => ?_, fun src dst sp dp p => ?_⟩
  · rw [ipHdr, sum16_field (by simp [slice]), ← ipHdr0_eq_field, fold_add_checksum]
  · rw [Regs.tcpArtifact_bytes, sum16_append (by simp), sum16_field (by simp [slice, Regs.tcpHdr0]), ← List.append_assoc,
      ← Regs.tcpHdr0_eq_field, ← Nat.add_assoc, ← sum16_append (by simp), ← List.append_assoc, fold_add_checksum]
  · rw [udpSeg, sum16_append (by simp), sum16_field (by simp [slice]), ← udpHdr0_eq_field, ← Nat.add_assoc,
      ← sum16_append (by simp), ← List.append_assoc]
    exact fold_add_udpSubst _

/-- Settles O31: with the field zeroed the artifact is the input of the checksum that stands in it. -/
theorem checksumRoundTrip : Obligations.ChecksumRoundTrip := by
  refine ⟨fun id src dst proto plen ttl => ?_, fun g p => ?_, fun src dst sp dp p => ?_⟩
  · simp only [ipHdr]
    rw [take_append_drop_field (n := 10) rfl, take_drop_field (n := 10) rfl, ← ipHdr0_eq_field]
  · simp only [Regs.tcpArtifact_bytes]
    rw [take_append_drop_field (n := 16) rfl, take_drop_field (n := 16) rfl, ← List.append_assoc (_ ++ _) _ p,
      ← Regs.tcpHdr0_eq_field, ← List.append_assoc]
  · simp only [udpSeg]
    rw [take_append_drop_field (n := 6) rfl, take_drop_field (n := 6) rfl, ← udpHdr0_eq_field, ← List.append_assoc]
    exact ⟨fun hc => congrArg be16 (if_neg hc).symm, fun hc => congrArg be16 (if_pos hc)⟩

/-! ### CSUM and CSUM_UDP (R126, R127) -/

theorem exec_csum (s : State) :
    exec .csum s = withInput s fun m => finish (s.setChecksum (sum16 m) (zext32 (checksum m))) := rfl

theorem exec_csumUdp (s : State) :
    exec .csumUdp s = withInput s fun m => finish (s.setChecksum (sum16 m) (zext32 (udpSubst (checksum m)))) := rfl

/-- A command that reads `LEN` and finds it above `IBUF_SIZE` does nothing else (R28). -/
theorem failsOnly_of_long {i : Instr} {s : State} {k : List Byte → Result} (hi : exec i s = withInput s k)
    (h : 65536 < s.regs.len.toNat) : FailsOnly i s .elen .none :=
  ⟨_, hi.trans (withInput_of_long k h), s.committed_commit .elen .none, rfl, fun _ => rfl, rfl,
    ⟨rfl, rfl, rfl, rfl⟩, rfl, rfl⟩

@[simp] theorem State.length_input (s : State) : s.input.length = s.regs.len.toNat := s.length_memRead .ibuf 0 _

theorem zext32_eq_append (v : Half) : zext32 v = 0#16 ++ v := BitVec.setWidth_eq_append (by decide)

theorem zext32_udpSubst (c : Half) :
    zext32 (udpSubst c) = (if c = 0x0000#16 then 0x0000FFFF#32 else 0#16 ++ c) := by
  unfold udpSubst
  split
  · rfl
  · exact zext32_eq_append c

/-- The substitution leaves no 0 (R125). -/
theorem zext32_udpSubst_ne_zero (c : Half) : zext32 (udpSubst c) ≠ 0#32 := by
  unfold udpSubst
  split
  · decide
  · next hc =>
    rw [zext32]
    bv_omega

/-- Settles O32: the input, its sum and its checksum, and the commit. -/
theorem csumResult : Obligations.CsumResult := by
  refine ⟨by decide, fun s => ⟨fun h => ?_, fun h => ?_⟩⟩
  · have fits : s.input.length ≤ 65568 := by
      rw [State.length_input]
      omega
    exact ⟨_, (exec_csum s).trans (withInput_of_fits _ h), ⟨rfl, rfl⟩, toNat_ofNat_sum16 fits, zext32_eq_append _,
      rfl, fun _ => rfl, rfl, ⟨rfl, rfl, rfl, rfl⟩, rfl, rfl⟩
  · exact failsOnly_of_long (exec_csum s) h

/-- Settles O33: as CSUM, with the substituted checksum. -/
theorem csumUdpResult : Obligations.CsumUdpResult := by
  refine ⟨by decide, fun s => ⟨fun h => ?_, fun h => ?_⟩⟩
  · have fits : s.input.length ≤ 65568 := by
      rw [State.length_input]
      omega
    exact ⟨_, (exec_csumUdp s).trans (withInput_of_fits _ h), ⟨rfl, rfl⟩, toNat_ofNat_sum16 fits, zext32_udpSubst _,
      zext32_udpSubst_ne_zero _, rfl, fun _ => rfl, rfl, ⟨rfl, rfl, rfl, rfl⟩, rfl, rfl⟩
  · exact failsOnly_of_long (exec_csumUdp s) h

end Sys2Proof.Machine
end

section
/-!
Address text (30_encoding.md R106, 41_ip_header.md R142): the decimal text of a component, the split at the dots, and the two
commands that parse it (R140, R141).
-/

namespace Sys2Proof.Machine

/-! ### Decimal digits (R106) -/

/-- The character of a digit. -/
def digitChar (d : Nat) : Byte := BitVec.ofNat 8 (0x30 + d)

theorem toNat_digitChar {d : Nat} (h : d < 10) : (digitChar d).toNat = 0x30 + d := by
  rw [digitChar, BitVec.toNat_ofNat]
  omega

theorem digitChar_eq_zero_iff {d : Nat} (h : d < 10) : digitChar d = 0x30#8 ↔ d = 0 := by
  rw [← BitVec.toNat_inj, toNat_digitChar h, BitVec.toNat_ofNat]
  omega

theorem isDigit_iff (b : Byte) : isDigit b = true ↔ ∃ d < 10, b = digitChar d := by
  rw [isDigit, decide_eq_true_iff]
  constructor
  · intro h
    refine ⟨b.toNat - 0x30, by omega, BitVec.eq_of_toNat_eq ?_⟩
    rw [toNat_digitChar (by omega)]
    omega
  · rintro ⟨d, hd, rfl⟩
    rw [toNat_digitChar hd]
    omega

@[simp] theorem isDigit_digitChar {d : Nat} (h : d < 10) : isDigit (digitChar d) = true := (isDigit_iff _).mpr ⟨d, h, rfl⟩

theorem decimalText_eq (c : Byte) :
    decimalText c = if c.toNat < 10 then [digitChar c.toNat]
      else if c.toNat < 100 then [digitChar (c.toNat / 10), digitChar (c.toNat % 10)]
      else [digitChar (c.toNat / 100), digitChar (c.toNat / 10 % 10), digitChar (c.toNat % 10)] := rfl

/-- What the grammar asks of a component (R106), and its value. -/
theorem component_iff (p : List Byte) (c : Byte) :
    component p = some c ↔ (0 < p.length ∧ p.length ≤ 3) ∧ (∀ b ∈ p, isDigit b = true)
      ∧ ¬ (1 < p.length ∧ p.head? = some 0x30#8) ∧ decimal p = c.toNat := by
  have value : decimal p = c.toNat ↔ decimal p ≤ 255 ∧ BitVec.ofNat 8 (decimal p) = c := by
    rw [← BitVec.toNat_inj, BitVec.toNat_ofNat]
    have := c.isLt
    omega
  have digits : (p.any fun b => !isDigit b) = false ↔ ∀ b ∈ p, isDigit b = true := by simp
  rw [value, ← digits, component]
  split
  · next hlen => exact iff_of_false (by simp) fun h => by omega
  split
  · next hdig => simp [hdig]
  split
  · next hzero => simp [hzero]
  split
  · next hbig => exact iff_of_false (by simp) fun h => by omega
  · next hlen hdig hzero hbig =>
    have length : 0 < p.length ∧ p.length ≤ 3 := by omega
    simp only [length, hdig, hzero, Nat.not_lt.mp hbig, not_false_eq_true, true_and, and_self, Option.some.injEq]

theorem decimal_one {a : Nat} (ha : a < 10) : decimal [digitChar a] = a := by
  simp [decimal, toNat_digitChar ha]

theorem decimal_two {a b : Nat} (ha : a < 10) (hb : b < 10) : decimal [digitChar a, digitChar b] = 10 * a + b := by
  simp [decimal, toNat_digitChar, ha, hb]

theorem decimal_three {a b d : Nat} (ha : a < 10) (hb : b < 10) (hd : d < 10) :
    decimal [digitChar a, digitChar b, digitChar d] = 10 * (10 * a + b) + d := by
  simp [decimal, toNat_digitChar, ha, hb, hd]

/-- The accepted text of one, two or three digits is the text of its value. -/
theorem eq_decimalText_of_component {p : List Byte} {c : Byte} (h : component p = some c) : p = decimalText c := by
  obtain ⟨hlen, hdig, hzero, hval⟩ := (component_iff p c).mp h
  rw [decimalText_eq]
  rcases p with _ | ⟨x, _ | ⟨y, _ | ⟨z, _ | ⟨w, p⟩⟩⟩⟩
  · simp at hlen
  · obtain ⟨a, ha, rfl⟩ := (isDigit_iff x).mp (hdig x (by simp))
    rw [decimal_one ha] at hval
    rw [if_pos (by omega), hval]
  · obtain ⟨a, ha, rfl⟩ := (isDigit_iff x).mp (hdig x (by simp))
    obtain ⟨b, hb, rfl⟩ := (isDigit_iff y).mp (hdig y (by simp))
    have leading : a ≠ 0 := by simpa [digitChar_eq_zero_iff ha] using hzero
    rw [decimal_two ha hb] at hval
    rw [if_neg (by omega), if_pos (by omega), show c.toNat / 10 = a by omega, show c.toNat % 10 = b by omega]
  · obtain ⟨a, ha, rfl⟩ := (isDigit_iff x).mp (hdig x (by simp))
    obtain ⟨b, hb, rfl⟩ := (isDigit_iff y).mp (hdig y (by simp))
    obtain ⟨d, hd, rfl⟩ := (isDigit_iff z).mp (hdig z (by simp))
    have leading : a ≠ 0 := by simpa [digitChar_eq_zero_iff ha] using hzero
    rw [decimal_three ha hb hd] at hval
    rw [if_neg (by omega), if_neg (by omega), show c.toNat / 100 = a by omega, show c.toNat / 10 % 10 = b by omega,
      show c.toNat % 10 = d by omega]
  · simp only [List.length_cons] at hlen
    omega

/-- The text of a byte is accepted, with that byte as its value. -/
theorem component_decimalText (c : Byte) : component (decimalText c) = some c := by
  have small := c.isLt
  have ones : c.toNat % 10 < 10 := by omega
  rw [decimalText_eq]
  split
  · next h => exact (component_iff _ _).mpr ⟨by simp, by simp [h], by simp, decimal_one h⟩
  split
  · next h _ =>
    have tens : c.toNat / 10 < 10 := by omega
    have leading : c.toNat / 10 ≠ 0 := by omega
    refine (component_iff _ _).mpr
      ⟨by simp, by simp [tens, ones], by simp [digitChar_eq_zero_iff tens, leading], (decimal_two tens ones).trans ?_⟩
    omega
  · have hundreds : c.toNat / 100 < 10 := by omega
    have tens : c.toNat / 10 % 10 < 10 := by omega
    have leading : c.toNat / 100 ≠ 0 := by omega
    refine (component_iff _ _).mpr
      ⟨by simp, by simp [hundreds, tens, ones], by simp [digitChar_eq_zero_iff hundreds, leading],
        (decimal_three hundreds tens ones).trans ?_⟩
    omega

/-! ### The split at the dots (R142) -/

theorem splitDots_eq_splitOn (t : List Byte) : splitDots t = t.splitOn 0x2E#8 := by
  induction t with
  | nil => rfl
  | cons b t ih =>
    rw [splitDots, List.splitOn_cons_eq_if_modifyHead, ih]
    by_cases hb : b = 0x2E#8
    · simp [hb]
    · obtain ⟨p, ps, hsplit⟩ := List.exists_cons_of_ne_nil (List.splitOn_ne_nil 0x2E#8 t)
      simp [hb, hsplit]

/-- Where no part holds a dot, the parts are those of the text that they make, and of no other text. -/
theorem splitDots_eq_iff {t : List Byte} {ps : List (List Byte)} (hne : ps ≠ []) (hps : ∀ p ∈ ps, 0x2E#8 ∉ p) :
    splitDots t = ps ↔ t = [0x2E#8].intercalate ps := by
  rw [splitDots_eq_splitOn]
  constructor
  · rintro rfl
    exact (List.intercalate_splitOn _).symm
  · rintro rfl
    exact List.splitOn_intercalate _ hps hne

theorem dot_notMem_decimalText (c : Byte) : 0x2E#8 ∉ decimalText c := by
  obtain ⟨-, digits, -⟩ := (component_iff _ _).mp (component_decimalText c)
  exact fun h => absurd (digits _ h) (by decide)

/-! ### The address (R106) -/

theorem ofComponents_extractLsb' (v : Word) :
    ofComponents (v.extractLsb' 24 8) (v.extractLsb' 16 8) (v.extractLsb' 8 8) (v.extractLsb' 0 8) = v := by
  rw [ofComponents, BitVec.extractLsb'_append_extractLsb'_eq_extractLsb' (by decide),
    BitVec.extractLsb'_append_extractLsb'_eq_extractLsb' (by decide),
    BitVec.extractLsb'_append_extractLsb'_eq_extractLsb' (by decide)]
  exact BitVec.extractLsb'_eq_self

/-- The texts of an address's components. -/
def componentTexts (v : Word) : List (List Byte) :=
  [decimalText (v.extractLsb' 24 8), decimalText (v.extractLsb' 16 8), decimalText (v.extractLsb' 8 8),
    decimalText (v.extractLsb' 0 8)]

theorem dottedQuad_eq_intercalate (v : Word) : dottedQuad v = [0x2E#8].intercalate (componentTexts v) := by
  simp [dottedQuad, componentTexts, List.intercalate]

theorem componentTexts_ofComponents (c0 c1 c2 c3 : Byte) :
    componentTexts (ofComponents c0 c1 c2 c3) = [decimalText c0, decimalText c1, decimalText c2, decimalText c3] := by
  have byte0 : (ofComponents c0 c1 c2 c3).extractLsb' 0 8 = c3 := BitVec.extractLsb'_append_eq_right
  have byte1 : (ofComponents c0 c1 c2 c3).extractLsb' 8 8 = c2 :=
    (BitVec.extractLsb'_append_eq_of_le (by decide)).trans BitVec.extractLsb'_append_eq_right
  have byte2 : (ofComponents c0 c1 c2 c3).extractLsb' 16 8 = c1 :=
    (BitVec.extractLsb'_append_eq_of_le (by decide)).trans
      ((BitVec.extractLsb'_append_eq_of_le (by decide)).trans BitVec.extractLsb'_append_eq_right)
  have byte3 : (ofComponents c0 c1 c2 c3).extractLsb' 24 8 = c0 :=
    (BitVec.extractLsb'_append_eq_of_le (by decide)).trans
      ((BitVec.extractLsb'_append_eq_of_le (by decide)).trans BitVec.extractLsb'_append_eq_left)
  rw [componentTexts, byte3, byte2, byte1, byte0]

theorem parseAddr_eq_some_iff (t : List Byte) (v : Word) : parseAddr t = some v ↔ splitDots t = componentTexts v := by
  constructor
  · intro h
    unfold parseAddr at h
    split at h
    · next p0 p1 p2 p3 hsplit =>
      split at h
      · next c0 c1 c2 c3 h0 h1 h2 h3 =>
        cases h
        rw [hsplit, componentTexts_ofComponents, ← eq_decimalText_of_component h0, ← eq_decimalText_of_component h1,
          ← eq_decimalText_of_component h2, ← eq_decimalText_of_component h3]
      · cases h
    · cases h
  · intro h
    simp [parseAddr, h, componentTexts, component_decimalText, ofComponents_extractLsb']

/-- Settles O34: both sides say what the parts between the dots are. -/
theorem addressTextExactly : Obligations.AddressTextExactly := by
  intro t v
  rw [parseAddr_eq_some_iff, dottedQuad_eq_intercalate]
  refine splitDots_eq_iff (by simp [componentTexts]) fun p hp => ?_
  simp only [componentTexts, List.mem_cons, List.not_mem_nil, or_false] at hp
  obtain rfl | rfl | rfl | rfl := hp <;> exact dot_notMem_decimalText _

/-! ### PARSE_SRC and PARSE_DST (R140, R141) -/

theorem parseAddr_eq_none {t : List Byte} (h : ∀ v, t ≠ dottedQuad v) : parseAddr t = none :=
  Option.eq_none_iff_forall_ne_some.mpr fun v hv => h v ((addressTextExactly t v).mp hv)

/-- A command that comes straight to its commit with an error leaves everything else (R224). -/
theorem failsOnly_of_raise {i : Instr} {s : State} {e : ErrCode} {d : DevSub} (h : exec i s = raise e d s) :
    FailsOnly i s e d :=
  ⟨_, h, s.committed_commit e d, rfl, fun _ => rfl, rfl, ⟨rfl, rfl, rfl, rfl⟩, rfl, rfl⟩

/-- What PARSE_SRC and PARSE_DST do alike; `put` writes the address into its register. -/
def parseInto (put : Regs → Word → Regs) (s : State) : Result :=
  withInput s fun t =>
    match parseAddr t with
    | none => raise .eaddr .none s
    | some a => finish { s with regs := put s.regs a }

theorem exec_parseSrc (s : State) : exec .parseSrc s = parseInto (fun g a => { g with srcAddr := a }) s := rfl

theorem exec_parseDst (s : State) : exec .parseDst s = parseInto (fun g a => { g with dstAddr := a }) s := rfl

theorem parseInto_of_valid (put : Regs → Word → Regs) {s : State} {v : Word} (hfits : s.regs.len.toNat ≤ 65536)
    (hv : s.input = dottedQuad v) : parseInto put s = finish { s with regs := put s.regs v } := by
  rw [parseInto, withInput_of_fits _ hfits, ← State.input, (addressTextExactly _ v).mpr hv]

theorem parseInto_of_invalid (put : Regs → Word → Regs) {s : State} (hfits : s.regs.len.toNat ≤ 65536)
    (hinvalid : ∀ v, s.input ≠ dottedQuad v) : parseInto put s = raise .eaddr .none s := by
  rw [parseInto, withInput_of_fits _ hfits, ← State.input, parseAddr_eq_none hinvalid]

/-- What R140 and R141 say alike, for a command that parses into the register of `put`. -/
theorem parseInto_result {i : Instr} {put : Regs → Word → Regs} {s : State} (hi : exec i s = parseInto put s) :
    (s.regs.len.toNat ≤ 65536 →
      (∀ v, s.input = dottedQuad v →
        ∃ t, exec i s = .next t ∧ Committed s t .none .none ∧ t.regs = put s.regs v
          ∧ SameBytes s t ∧ t.handle = s.handle ∧ Untouched s t) ∧
      ((∀ v, s.input ≠ dottedQuad v) → FailsOnly i s .eaddr .none)) ∧
    (65536 < s.regs.len.toNat → FailsOnly i s .elen .none) := by
  refine ⟨fun hfits => ⟨fun v hv => ?_, fun hinvalid => ?_⟩, failsOnly_of_long hi⟩
  · exact ⟨_, hi.trans (parseInto_of_valid put hfits hv), ⟨rfl, rfl⟩, rfl, fun _ => rfl, rfl, ⟨rfl, rfl, rfl, rfl⟩, rfl, rfl⟩
  · exact failsOnly_of_raise (hi.trans (parseInto_of_invalid put hfits hinvalid))

/-- Settles O35: the shared rule, with `SRC_ADDR`. -/
theorem parseSrcResult : Obligations.ParseSrcResult :=
  ⟨by decide, fun s => parseInto_result (exec_parseSrc s)⟩

/-- Settles O36: the shared rule, with `DST_ADDR`. -/
theorem parseDstResult : Obligations.ParseDstResult :=
  ⟨by decide, fun s => parseInto_result (exec_parseDst s)⟩

end Sys2Proof.Machine
end

section
/-!
The IPv4 header (41_ip_header.md): what an encoding command leaves, IP_ENC (R145), and the constant identification (R146).
-/

namespace Sys2Proof.Machine

/-! ### IP_ENC (R145) -/

/-- What an encoding command leaves, where the artifact's length and sum fit in `OLEN` and `ACC` (R47, R70). -/
theorem emitted_of_finish {i : Instr} {s : State} {x : Artifact} (h : exec i s = finish (s.emit x))
    (hlen : x.bytes.length < 2 ^ 32) (hsum : (BitVec.ofNat 32 x.sum).toNat = x.sum) :
    ∃ t, exec i s = .next t ∧ Committed s t .none .none ∧ Emitted s t x.bytes x.sum x.result
      ∧ t.handle = s.handle ∧ Untouched s t :=
  ⟨_, h, ⟨rfl, rfl⟩, ⟨s.memRead_emit x, s.byte_emit_outside x, (BitVec.toNat_ofNat _ _).trans (Nat.mod_eq_of_lt hlen),
    hsum, rfl, rfl⟩, rfl, ⟨rfl, rfl, rfl, rfl⟩, rfl, rfl⟩

theorem Regs.payloadLen_eq (g : Regs) : g.payloadLen = g.plen.toNat % 65536 := by
  rw [Regs.payloadLen, BitVec.extractLsb'_toNat, Nat.shiftRight_zero]

theorem exec_ipEnc (s : State) : exec .ipEnc s = finish (s.emit s.ipArtifact) := rfl

/-- Settles O38: the artifact, with the header's fields written out from the registers, and the commit. -/
theorem ipEncResult : Obligations.IpEncResult := by
  refine ⟨by decide, fun s => ?_⟩
  intro h0 c
  have artifact : s.ipArtifact = { bytes := h0.take 10 ++ [c.extractLsb' 8 8, c.extractLsb' 0 8] ++ h0.drop 12,
                                   sum := sum16 h0, result := 0#16 ++ c } := by
    simp only [State.ipArtifact, Regs.payloadLen_eq, zext32_eq_append]
    rfl
  have run := exec_ipEnc s
  have length : h0.length = 20 := length_ipHdr0 ..
  rw [artifact] at run
  clear_value h0 c
  exact emitted_of_finish run (by simp [length]) (toNat_ofNat_sum16 (by omega))

/-! ### The model's own fields (R146) -/

/-- Where the outcome `r` is a next state, `IP_ID` and the model's other own fields, but for `inputs` and `sent`, are those
of `s`. -/
def KeepsOwn (s : State) (r : Result) : Prop := ∀ t, r = .next t → SameOwn s t

section
variable {s t u : State} {r r' : Result}

theorem KeepsOwn.ipId (h : KeepsOwn s r) (ht : r = .next t) : t.ipId = s.ipId := by
  obtain ⟨hid, -⟩ := h t ht
  exact hid

theorem KeepsOwn.raise {e : ErrCode} {d : DevSub} (hu : SameOwn s u := by simp [SameOwn]) :
    KeepsOwn s (raise e d u) := by
  rintro _ ⟨⟩
  exact hu

theorem KeepsOwn.finish (hu : SameOwn s u := by simp [SameOwn]) : KeepsOwn s (finish u) := .raise hu

theorem KeepsOwn.ite {c : Prop} [Decidable c] (h : KeepsOwn s r) (h' : KeepsOwn s r') : KeepsOwn s (if c then r else r') := by
  split
  · exact h
  · exact h'

theorem KeepsOwn.withInput {k : List Byte → Result} (hk : ∀ p, KeepsOwn s (k p)) : KeepsOwn s (withInput s k) :=
  .ite .raise (hk _)

theorem KeepsOwn.withUdpPayload {k : List Byte → Result} (hk : ∀ p, KeepsOwn s (k p)) : KeepsOwn s (withUdpPayload s k) :=
  .withInput fun p => .ite .raise (hk p)

/-- What keeps the fields from the sent request on keeps them from the request's state. -/
theorem KeepsOwn.envRequest {i : Instr} {req : EnvReq} {k : Answer → State → Result} {refused : Bool}
    (hk : ∀ a u, KeepsOwn u (k a u)) : KeepsOwn s (envRequest i req k s refused) := by
  intro t h
  obtain ⟨a, rest, -, -, h⟩ | ⟨-, rfl⟩ := envRequest_next h
  · have kept := hk a _ t h
    exact kept
  · exact ⟨rfl, rfl, rfl, rfl⟩

end

/-! The answers to requests (R185-R188, R200), and what the commands have in common. -/

theorem devOpenRefused_keepsOwn (a : Answer) (s : State) : KeepsOwn s (devOpenRefused a s) := .raise

theorem devOpenConfigured_keepsOwn (name : List Byte) (a : Answer) (s : State) :
    KeepsOwn s (devOpenConfigured name a s) := .ite (.envRequest devOpenRefused_keepsOwn) .finish

theorem devOpenOpened_keepsOwn (name : List Byte) (a : Answer) (s : State) : KeepsOwn s (devOpenOpened name a s) :=
  .ite .raise (.envRequest (devOpenConfigured_keepsOwn name))

theorem devOpenRequest_keepsOwn (s : State) : KeepsOwn s (devOpenRequest s) :=
  .envRequest (devOpenOpened_keepsOwn s.regs.deviceName)

theorem devOpenReleased_keepsOwn (a : Answer) (s : State) : KeepsOwn s (devOpenReleased a s) := devOpenRequest_keepsOwn s

theorem devReadAnswered_keepsOwn (a : Answer) (s : State) : KeepsOwn s (devReadAnswered a s) := by
  cases a with
  | data d => exact .finish
  | ok => exact .raise
  | fail => exact .raise

theorem devWriteAnswered_keepsOwn (a : Answer) (s : State) : KeepsOwn s (devWriteAnswered a s) := .ite .raise .finish

theorem devCloseAnswered_keepsOwn (a : Answer) (s : State) : KeepsOwn s (devCloseAnswered a s) := .finish

theorem sendUdpAnswered_keepsOwn (a : Answer) (s : State) : KeepsOwn s (sendUdpAnswered a s) := .ite .raise .finish

theorem transmit_keepsOwn (arg0 : Bool) (d : List Byte) (s : State) : KeepsOwn s (transmit arg0 d s) :=
  .ite (.envRequest devWriteAnswered_keepsOwn) .raise

theorem parseInto_keepsOwn (put : Regs → Word → Regs) (s : State) : KeepsOwn s (parseInto put s) :=
  .withInput fun t => by
    cases parseAddr t with
    | none => exact .raise
    | some v => exact .finish

/-! The commands. -/

theorem execCsum_keepsOwn (s : State) : KeepsOwn s (execCsum s) := .withInput fun _ => .finish

theorem execCsumUdp_keepsOwn (s : State) : KeepsOwn s (execCsumUdp s) := .withInput fun _ => .finish

theorem execIpEnc_keepsOwn (s : State) : KeepsOwn s (execIpEnc s) := .finish

theorem execTcpEnc_keepsOwn (s : State) : KeepsOwn s (execTcpEnc s) := .withInput fun _ => .finish

theorem execUdpEnc_keepsOwn (s : State) : KeepsOwn s (execUdpEnc s) := .withUdpPayload fun _ => .finish

theorem execSendUdp_keepsOwn (s : State) : KeepsOwn s (execSendUdp s) :=
  .withUdpPayload fun _ => .ite (.envRequest sendUdpAnswered_keepsOwn) .raise

theorem execDevOpen_keepsOwn (s : State) : KeepsOwn s (execDevOpen s) :=
  .ite (.envRequest devOpenReleased_keepsOwn) (devOpenRequest_keepsOwn s)

theorem execDevRead_keepsOwn (s : State) : KeepsOwn s (execDevRead s) :=
  .ite .raise (.ite (.envRequest devReadAnswered_keepsOwn) .raise)

theorem execDevWrite_keepsOwn (arg0 : Bool) (s : State) : KeepsOwn s (execDevWrite arg0 s) :=
  .ite (transmit_keepsOwn arg0 _ s) (.withInput fun d => transmit_keepsOwn arg0 d s)

theorem execDevClose_keepsOwn (s : State) : KeepsOwn s (execDevClose s) :=
  .ite (.envRequest devCloseAnswered_keepsOwn) .finish

theorem exec_keepsOwn (i : Instr) (s : State) : KeepsOwn s (exec i s) := by
  cases i with
  | nop => exact .finish
  | csum => exact execCsum_keepsOwn s
  | csumUdp => exact execCsumUdp_keepsOwn s
  | parseSrc => exact exec_parseSrc s ▸ parseInto_keepsOwn _ s
  | parseDst => exact exec_parseDst s ▸ parseInto_keepsOwn _ s
  | ipEnc => exact execIpEnc_keepsOwn s
  | tcpEnc => exact execTcpEnc_keepsOwn s
  | udpEnc => exact execUdpEnc_keepsOwn s
  | sendUdp => exact execSendUdp_keepsOwn s
  | devOpen => exact execDevOpen_keepsOwn s
  | devRead => exact execDevRead_keepsOwn s
  | devWrite arg0 => exact execDevWrite_keepsOwn arg0 s
  | devClose => exact execDevClose_keepsOwn s

theorem resume_keepsOwn (i : Instr) (req : EnvReq) (refused : Bool) (a : Answer) (s : State) :
    KeepsOwn s (resume i req refused a s) := by
  cases req with
  | openDev name => exact devOpenOpened_keepsOwn name a s
  | config name tun noPi => exact devOpenConfigured_keepsOwn name a s
  | rx => exact devReadAnswered_keepsOwn a s
  | tx d =>
    cases i
    case sendUdp => exact sendUdpAnswered_keepsOwn a s
    all_goals exact devWriteAnswered_keepsOwn a s
  | close =>
    cases i
    case devOpen => exact .ite (devOpenRefused_keepsOwn a s) (devOpenReleased_keepsOwn a s)
    all_goals exact devCloseAnswered_keepsOwn a s

theorem engineTurn_keepsOwn (s : State) : KeepsOwn s (engineTurn s) := by
  intro t h
  obtain ⟨v, i, -, -, h⟩ | ⟨v, x, -, -, rfl⟩ | ⟨-, rfl⟩ := engineTurn_next h
  · exact exec_keepsOwn i s t h
  · exact ⟨rfl, rfl, rfl, rfl⟩
  · exact ⟨rfl, rfl, rfl, rfl⟩

theorem environmentTurn_keepsOwn (a : Answer) (s : State) : KeepsOwn s (environmentTurn a s) := by
  intro t h
  obtain ⟨i, req, refused, -, -, h⟩ := environmentTurn_next h
  exact resume_keepsOwn i req refused a s t h

/-! A host access answers in `resp`, and may draw; `IP_ID` is out of its reach. -/

theorem State.busRead_ipId (s : State) (w : Width) (g : Target) : (s.busRead w g).ipId = s.ipId := by
  unfold State.busRead
  split
  · rfl
  · rfl
  all_goals split <;> rfl

theorem State.storeTo_ipId (s : State) (w : Width) (v : Word) (g : Target) : (s.storeTo w v g).ipId = s.ipId := by
  unfold State.storeTo
  split
  · rfl
  all_goals split <;> rfl

theorem hostTurn_ipId {a : Access} {s t : State} (h : hostTurn a s = .next t) : t.ipId = s.ipId := by
  obtain ⟨-, ⟨w, addr, g, -, -, rfl⟩ | ⟨w, addr, v, g, -, -, rfl⟩⟩ := hostTurn_next h
  · exact s.busRead_ipId w g
  · exact s.storeTo_ipId w v g

/-- Settles O55: no turn writes `IP_ID`. -/
theorem identificationConstant : Obligations.IdentificationConstant := by
  intro s t h
  obtain ⟨-, h⟩ | ⟨rest, -, h⟩ | ⟨a, rest, -, h⟩ | ⟨a, rest, -, h⟩ | ⟨rest, -, rfl⟩ := step_next h
  · exact (engineTurn_keepsOwn s).ipId h
  · exact (engineTurn_keepsOwn { s with inputs := rest }).ipId h
  · exact hostTurn_ipId (s := { s with inputs := rest }) h
  · exact (environmentTurn_keepsOwn a { s with inputs := rest }).ipId h
  · rfl

end Sys2Proof.Machine
end

section
/-!
The TCP header (42_tcp.md): the segment of the registers in terms of its checksum input, and TCP_ENC (R160-R162).
-/

namespace Sys2Proof.Machine

/-! ### The segment and its checksum input (R104, R160) -/

/-- What the checksum of the TCP segment with the payload `p` is taken over: pseudo-header, header and payload. -/
def Regs.tcpInput (g : Regs) (p : List Byte) : List Byte :=
  pseudo g.srcAddr g.dstAddr 6#8 (20 + p.length) ++ g.tcpHdr0 ++ p

@[simp] theorem Regs.length_tcpHdr0 (g : Regs) : g.tcpHdr0.length = 20 := rfl

@[simp] theorem Regs.length_tcpInput (g : Regs) (p : List Byte) : (g.tcpInput p).length = 32 + p.length := by
  simp [Regs.tcpInput]
  omega

theorem Regs.tcpArtifact_eq (g : Regs) (p : List Byte) :
    g.tcpArtifact p = { bytes := g.tcpHdr0.take 16 ++ be16 (checksum (g.tcpInput p)) ++ g.tcpHdr0.drop 18 ++ p
                        sum := sum16 (g.tcpInput p)
                        result := 0#16 ++ checksum (g.tcpInput p) } := by
  rw [← zext32_eq_append]
  rfl

/-! ### TCP_ENC (R162) -/

theorem exec_tcpEnc (s : State) :
    exec .tcpEnc s = withInput s fun p => finish (s.emit (s.regs.tcpArtifact p)) := rfl

/-- A payload that fits is encoded: the segment's artifact, and the commit. -/
theorem exec_tcpEnc_emits {s : State} (hfits : s.regs.len.toNat ≤ 65536) :
    let x := s.regs.tcpArtifact s.input
    ∃ t, exec .tcpEnc s = .next t ∧ Committed s t .none .none ∧ Emitted s t x.bytes x.sum x.result
      ∧ t.handle = s.handle ∧ Untouched s t := by
  have run := (exec_tcpEnc s).trans (withInput_of_fits _ hfits)
  refine emitted_of_finish run ?_ (toNat_ofNat_sum16 (m := s.regs.tcpInput s.input) ?_)
  · rw [Regs.length_tcpArtifact, State.length_input]
    omega
  · rw [Regs.length_tcpInput, State.length_input]
    omega

/-- Settles O39: the segment, with the header's fields written out from the registers, and the commit. -/
theorem tcpEncResult : Obligations.TcpEncResult := by
  refine ⟨by decide, fun s => ⟨fun hfits => ?_, failsOnly_of_long (exec_tcpEnc s)⟩⟩
  intro g p h0 m
  have header : g.tcpHdr0 = h0 := rfl
  have input : g.tcpInput p = m := by
    rw [Regs.tcpInput, State.length_input]
    rfl
  have emits := exec_tcpEnc_emits hfits
  rwa [Regs.tcpArtifact_eq, header, input] at emits

end Sys2Proof.Machine
end

section
/-!
The UDP segment (43_udp.md): the size limit of a payload (R171), the segment in terms of its checksum input, and UDP_ENC
(R172).
-/

namespace Sys2Proof.Machine

/-! ### The payload of UDP_ENC and SEND_UDP (R171, R28) -/

theorem withUdpPayload_of_fits {s : State} (k : List Byte → Result) (h : s.regs.len.toNat ≤ Config.udpMaxPayload) :
    withUdpPayload s k = k s.input := by
  have fits : s.regs.len.toNat ≤ Config.ibufSize := h.trans (by decide)
  rw [withUdpPayload, withInput_of_fits _ fits, if_neg (Nat.not_lt.mpr h), State.input]

theorem withUdpPayload_of_oversize {s : State} (k : List Byte → Result) (h : Config.udpMaxPayload < s.regs.len.toNat)
    (hfits : s.regs.len.toNat ≤ Config.ibufSize) : withUdpPayload s k = raise .esize .none s := by
  rw [withUdpPayload, withInput_of_fits _ hfits, if_pos h]

/-! ### The segment and its checksum input (R170, R173) -/

@[simp] theorem length_udpInput (src dst : Word) (sp dp : Half) (p : List Byte) :
    (udpInput src dst sp dp p).length = 20 + p.length := by
  simp [udpInput]
  omega

/-- What the checksum of the UDP segment of the registers, with the payload `p`, is taken over. -/
def Regs.udpInput (g : Regs) (p : List Byte) : List Byte := Machine.udpInput g.srcAddr g.dstAddr g.sport g.dport p

@[simp] theorem Regs.length_udpInput (g : Regs) (p : List Byte) : (g.udpInput p).length = 20 + p.length :=
  Machine.length_udpInput ..

theorem Regs.udpArtifact_eq (g : Regs) (p : List Byte) :
    g.udpArtifact p = { bytes := be16 g.sport ++ be16 g.dport ++ be16 (mod16 (8 + p.length))
                          ++ be16 (udpSubst (checksum (g.udpInput p))) ++ p
                        sum := sum16 (g.udpInput p)
                        result := 0#16 ++ udpSubst (checksum (g.udpInput p)) } := by
  rw [← zext32_eq_append]
  rfl

/-! ### UDP_ENC (R172) -/

theorem exec_udpEnc (s : State) :
    exec .udpEnc s = withUdpPayload s fun p => finish (s.emit (s.regs.udpArtifact p)) := rfl

/-- A payload within the limit is encoded: the segment's artifact, and the commit. -/
theorem exec_udpEnc_emits {s : State} (hfits : s.regs.len.toNat ≤ 65527) :
    let x := s.regs.udpArtifact s.input
    ∃ t, exec .udpEnc s = .next t ∧ Committed s t .none .none ∧ Emitted s t x.bytes x.sum x.result
      ∧ t.handle = s.handle ∧ Untouched s t := by
  have run := (exec_udpEnc s).trans (withUdpPayload_of_fits _ hfits)
  refine emitted_of_finish run ?_ (toNat_ofNat_sum16 (m := s.regs.udpInput s.input) ?_)
  · rw [Regs.length_udpArtifact, State.length_input]
    omega
  · rw [Regs.length_udpInput, State.length_input]
    omega

/-- Settles O40: the segment, with the header's fields written out from the registers, and the three ranges of `LEN`. -/
theorem udpEncResult : Obligations.UdpEncResult := by
  refine ⟨by decide, fun s => ⟨fun hfits => ?_, fun hsize hfits => ?_, failsOnly_of_long (exec_udpEnc s)⟩⟩
  · intro g p n h m c
    have header : be16 g.sport ++ be16 g.dport ++ be16 (mod16 (8 + p.length)) = h := by
      rw [State.length_input]
      rfl
    have input : g.udpInput p = m := by
      rw [Regs.udpInput, udpInput, State.length_input]
      rfl
    have subst : udpSubst (checksum m) = c := rfl
    have emits := exec_udpEnc_emits hfits
    rwa [Regs.udpArtifact_eq, header, input, subst] at emits
  · exact failsOnly_of_raise ((exec_udpEnc s).trans (withUdpPayload_of_oversize _ hsize hfits))

end Sys2Proof.Machine
end

section
/-!
The invariant of the machine, and R183's rule for the handle (44_device.md). Both are proved in one walk through the commands: a
state in which a command is under way leads, by the command's rule or by the answer to its request, to a sound state whose
handle that rule allows.
-/

namespace Sys2Proof.Machine

/-! ### Outcomes -/

/-- The outcome `r` meets `Q`, if it is a next state. -/
def Ensures (Q : State → Prop) (r : Result) : Prop := ∀ t, r = .next t → Q t

section
variable {Q : State → Prop} {s u : State} {r r' : Result}

theorem Ensures.raise {e : ErrCode} {d : DevSub} (h : Q (u.commit e d)) : Ensures Q (raise e d u) := by
  rintro _ ⟨⟩
  exact h

theorem Ensures.finish (h : Q (u.commit .none .none)) : Ensures Q (finish u) := .raise h

theorem Ensures.ite {c : Prop} [Decidable c] (h : c → Ensures Q r) (h' : ¬ c → Ensures Q r') :
    Ensures Q (if c then r else r') := by
  split
  · next hc => exact h hc
  · next hc => exact h' hc

theorem Ensures.withInput {k : List Byte → Result} (hlong : Q (s.commit .elen .none))
    (hk : s.input.length ≤ Config.ibufSize → Ensures Q (k s.input)) : Ensures Q (withInput s k) :=
  .ite (fun _ => .raise hlong) fun hfits => hk (by simpa using hfits)

theorem Ensures.withUdpPayload {k : List Byte → Result} (hlong : Q (s.commit .elen .none))
    (hsize : Q (s.commit .esize .none)) (hk : s.input.length ≤ Config.udpMaxPayload → Ensures Q (k s.input)) :
    Ensures Q (withUdpPayload s k) :=
  .withInput hlong fun _ => .ite (fun _ => .raise hsize) fun hfits => hk (by simpa using hfits)

theorem Ensures.envRequest {i : Instr} {req : EnvReq} {k : Answer → State → Result} {refused : Bool}
    (hwait : Q (s.send i req refused)) (hk : ∀ a rest, Ensures Q (k a { s.send i req refused with inputs := rest })) :
    Ensures Q (envRequest i req k s refused) := by
  intro t h
  obtain ⟨a, rest, -, -, h⟩ | ⟨-, rfl⟩ := envRequest_next h
  · exact hk a rest t h
  · exact hwait

end

/-! ### Registers, bytes and handle of a sound state -/

/-- What the invariant asks of the registers, the bytes and the handle, whatever `STATUS` and `PHASE` are. -/
structure State.SoundStore (s : State) : Prop where
  memWf : Memory.wf s.mem
  memInBuffers : ∀ c ∈ s.mem, inBuffers c.1
  olenBound : s.regs.olen.toNat ≤ Config.obufSize
  rlenBound : s.regs.rlen.toNat ≤ Config.rbufSize
  accBound : s.regs.acc.toNat ≤ 0x800F7FF0
  tcpctlReserved : s.regs.tcpctl &&& 0xFFFFC0F0#32 = 0#32
  ipcfgReserved : s.regs.ipcfg &&& 0xFFFF0000#32 = 0#32
  plenReserved : s.regs.plen &&& 0xFFFF0000#32 = 0#32
  handleName : ∀ name, s.handle = .opened name → name.length = 16

theorem State.Inv.soundStore {s : State} (h : s.Inv) : s.SoundStore := { h with }

theorem inBuffers_of_lt_size {b : Buf} {off : Nat} (h : off < b.size) : inBuffers (b.base + off) := by
  unfold inBuffers
  cases b <;> simp [Buf.base, Buf.size] at h ⊢ <;> omega

theorem toNat_ofNat_le {n bound : Nat} (h : n ≤ bound) : (BitVec.ofNat 32 n).toNat ≤ bound := by
  rw [BitVec.toNat_ofNat]
  exact (Nat.mod_le _ _).trans h

/-- The sums of R123: no input of a checksum is longer than a TCP segment with its pseudo-header. -/
theorem sum16_le_of_length {m : List Byte} (h : m.length ≤ 65568) : sum16 m ≤ 0x800F7FF0 := by
  have bound := sum16_le m
  omega

/-- An artifact fits in `OBUF`, and its sum is within R123's bound. -/
structure Artifact.Fits (x : Artifact) : Prop where
  length : x.bytes.length ≤ Config.obufSize
  sum : x.sum ≤ 0x800F7FF0

theorem State.ipArtifact_fits (s : State) : s.ipArtifact.Fits where
  length := by simp
  sum := sum16_le_of_length (by simp)

theorem Regs.tcpArtifact_fits (g : Regs) {p : List Byte} (h : p.length ≤ Config.ibufSize) : (g.tcpArtifact p).Fits where
  length := by simpa [Nat.add_comm] using h
  sum := sum16_le_of_length (m := g.tcpInput p) (by simp at h ⊢; omega)

theorem Regs.udpArtifact_fits (g : Regs) {p : List Byte} (h : p.length ≤ Config.udpMaxPayload) : (g.udpArtifact p).Fits where
  length := by simp at h ⊢; omega
  sum := sum16_le_of_length (m := g.udpInput p) (by simp at h ⊢; omega)

theorem State.udpDatagram_fits (s : State) {p : List Byte} (h : p.length ≤ Config.udpMaxPayload) : (s.udpDatagram p).Fits where
  length := by simp at h ⊢; omega
  sum := sum16_le_of_length (by simp)

namespace State.SoundStore
variable {s : State}

theorem memWrite (h : s.SoundStore) {b : Buf} {off : Nat} {bs : List Byte} (hfits : off + bs.length ≤ b.size) :
    (s.memWrite b off bs).SoundStore :=
  { h with
    memWf := Memory.write_wf h.memWf _ _
    memInBuffers := fun c hc => by
      obtain hc | ⟨hlo, hhi⟩ := Memory.mem_write hc
      · exact h.memInBuffers c hc
      · have place : inBuffers (b.base + (c.1 - b.base)) := inBuffers_of_lt_size (by omega)
        rwa [Nat.add_sub_cancel' (by omega)] at place }

theorem emit (h : s.SoundStore) {x : Artifact} (hx : x.Fits) : (s.emit x).SoundStore :=
  have written : (s.memWrite .obuf 0 x.bytes).SoundStore := h.memWrite (by simpa [Buf.size] using hx.length)
  { written with
    olenBound := toNat_ofNat_le hx.length
    accBound := toNat_ofNat_le hx.sum }

theorem setChecksum (h : s.SoundStore) {m : List Byte} (hm : m.length ≤ Config.ibufSize) (v : Word) :
    (s.setChecksum (sum16 m) v).SoundStore :=
  { h with accBound := toNat_ofNat_le (sum16_le_of_length (hm.trans (by decide))) }

/-- A datagram in `RBUF`, and its length in `RLEN` (R186). -/
theorem received (h : s.SoundStore) {d : List Byte} (hd : d.length ≤ Config.rbufSize) :
    State.SoundStore { s.memWrite .rbuf 0 d with regs := { s.regs with rlen := BitVec.ofNat 32 d.length } } :=
  have written : (s.memWrite .rbuf 0 d).SoundStore := h.memWrite (by simpa [Buf.size] using hd)
  { written with rlenBound := toNat_ofNat_le hd }

theorem closed (h : s.SoundStore) : State.SoundStore { s with handle := .closed } :=
  { h with handleName := fun _ hname => nomatch hname }

theorem opened (h : s.SoundStore) {name : List Byte} (hname : name.length = 16) :
    State.SoundStore { s with handle := .opened name } :=
  { h with handleName := fun _ heq => by cases heq; exact hname }

/-- R24: a host write drops the reserved bits of the register it writes. -/
theorem hostWrite (h : s.SoundStore) (r : Reg) (v : Word) : State.SoundStore { s with regs := s.regs.hostWrite r v } :=
  { h with
    olenBound := by cases r <;> exact h.olenBound
    rlenBound := by cases r <;> exact h.rlenBound
    accBound := by cases r <;> exact h.accBound
    tcpctlReserved := by
      cases r
      case tcpctl => exact (BitVec.and_assoc v _ _).trans BitVec.and_zero
      all_goals exact h.tcpctlReserved
    ipcfgReserved := by
      cases r
      case ipcfg => exact (BitVec.and_assoc v _ _).trans BitVec.and_zero
      all_goals exact h.ipcfgReserved
    plenReserved := by
      cases r
      case plen => exact (BitVec.and_assoc v _ _).trans BitVec.and_zero
      all_goals exact h.plenReserved }

/-- With nothing under way, the rest of the invariant is the rule for DEVSUB. -/
theorem inv_of_idle (h : s.SoundStore) (hidle : s.phase = .idle) (hdevsub : s.status.devsub ≠ .none ↔ s.status.err = .edev) :
    s.Inv :=
  { h with
    devsubOfEdev := hdevsub
    busyClear := by simp [hidle, Phase.isBusy]
    busyCmd := by simp [hidle]
    waitCmd := by simp [hidle]
    waitReq := by simp [hidle]
    waitSent := by simp [hidle]
    waitRefused := by simp [hidle] }

end State.SoundStore

/-! ### A command under way -/

/-- A sound state in which the command `i` is under way: `CMD` holds it, and `STATUS` is as at acceptance (R93). -/
structure UnderWay (i : Instr) (s : State) : Prop where
  store : s.SoundStore
  done : s.status.done = false
  err : s.status.err = .none
  devsub : s.status.devsub = .none
  cmd : s.regs.cmd = encode i

/-- The command `i` has sent the request `req`, one that it may send, and has no answer yet (R95, R180). -/
structure HasAsked (i : Instr) (req : EnvReq) (s : State) : Prop extends UnderWay i s where
  fits : waitFits s i req
  last : s.sent.getLast? = some req

section
variable {i : Instr} {s : State} {req : EnvReq} {refused : Bool}

theorem State.Inv.underWay (h : s.Inv) (hp : s.phase = .busy (encode i)) : UnderWay i s := by
  obtain ⟨hdone, herr, hdevsub⟩ := h.busyClear (by simp [hp, Phase.isBusy])
  exact ⟨h.soundStore, hdone, herr, hdevsub, h.busyCmd _ hp⟩

theorem State.Inv.hasAsked (h : s.Inv) (hp : s.phase = .waitEnv i req refused) : HasAsked i req s := by
  obtain ⟨hdone, herr, hdevsub⟩ := h.busyClear (by simp [hp, Phase.isBusy])
  exact ⟨⟨h.soundStore, hdone, herr, hdevsub, h.waitCmd _ _ _ hp⟩, h.waitReq _ _ _ hp, h.waitSent _ _ _ hp⟩

/-- Sending a request of its own leaves the command under way. -/
theorem UnderWay.send (h : UnderWay i s) (hfits : waitFits s i req) (refused : Bool) (rest : List Event) :
    HasAsked i req { s.send i req refused with inputs := rest } where
  store := { h.store with }
  done := h.done
  err := h.err
  devsub := h.devsub
  cmd := h.cmd
  fits := hfits
  last := List.getLast?_concat ..

theorem HasAsked.inv_of_wait (h : HasAsked i req s) (hp : s.phase = .waitEnv i req refused)
    (hrefused : refused = true → i = .devOpen ∧ req = .close) : s.Inv :=
  { h.store with
    devsubOfEdev := by simp [h.err, h.devsub]
    busyClear := fun _ => ⟨h.done, h.err, h.devsub⟩
    busyCmd := by simp [hp]
    waitCmd := fun _ _ _ heq => by cases hp.symm.trans heq; exact h.cmd
    waitReq := fun _ _ _ heq => by cases hp.symm.trans heq; exact h.fits
    waitSent := fun _ _ _ heq => by cases hp.symm.trans heq; exact h.last
    waitRefused := fun _ _ heq => by cases hp.symm.trans heq; exact hrefused rfl }

end

/-! ### What a command under way leads to -/

/-- R183: how the handle at `t` comes from the handle `h` by the command `i`. It changes at the commit only (log 20). -/
inductive HandleRule (i : Instr) (h : Handle) (t : State) : Prop
  | kept (hh : t.handle = h)
  | opened (name : List Byte) (hi : i = .devOpen) (hphase : t.phase = .idle) (hh : t.handle = .opened name)
    (herr : t.status.err = .none) (hsent : .config name true true ∈ t.sent)
  | failed (hi : i = .devOpen) (hphase : t.phase = .idle) (hh : t.handle = .closed) (herr : t.status.err = .edev)
  | closed (hi : i = .devClose) (hphase : t.phase = .idle) (hh : t.handle = .closed)

/-- A sound state whose handle comes by R183 from the handle `h` that the command `i` found. -/
structure Advances (i : Instr) (h : Handle) (t : State) : Prop where
  inv : t.Inv
  handle : HandleRule i h t

section
variable {i : Instr} {s u : State}

theorem State.SoundStore.inv_commit (h : s.SoundStore) {e : ErrCode} {d : DevSub} (hd : d ≠ .none ↔ e = .edev) :
    (s.commit e d).Inv :=
  State.SoundStore.inv_of_idle { h with } rfl hd

/-- A commit that leaves the handle alone. -/
theorem State.SoundStore.advances (h : u.SoundStore) {e : ErrCode} {d : DevSub} (hd : d ≠ .none ↔ e = .edev := by decide) :
    Advances i u.handle (u.commit e d) :=
  ⟨h.inv_commit hd, .kept rfl⟩

/-- A request of the command's own. -/
theorem UnderWay.envRequest (h : UnderWay i s) {req : EnvReq} {k : Answer → State → Result} {refused : Bool}
    (hfits : waitFits s i req) (hk : ∀ a u, HasAsked i req u → Ensures (Advances i u.handle) (k a u))
    (hrefused : refused = true → i = .devOpen ∧ req = .close := by simp) :
    Ensures (Advances i s.handle) (envRequest i req k s refused) :=
  .envRequest ⟨(h.send hfits refused s.inputs).inv_of_wait rfl hrefused, .kept rfl⟩ fun a rest =>
    hk a { s.send i req refused with inputs := rest } (h.send hfits refused rest)

/-! DEV_OPEN (R185). -/

theorem devOpenRefused_advances (a : Answer) (h : HasAsked .devOpen .close s) :
    Ensures (Advances .devOpen s.handle) (devOpenRefused a s) :=
  .raise ⟨h.store.closed.inv_commit (by decide), .failed rfl rfl rfl rfl⟩

theorem devOpenConfigured_advances {name : List Byte} {tun noPi : Bool} (a : Answer)
    (h : HasAsked .devOpen (.config name tun noPi) s) : Ensures (Advances .devOpen s.handle) (devOpenConfigured name a s) := by
  obtain ⟨hname, rfl, rfl⟩ := h.fits
  exact .ite (fun _ => h.envRequest trivial fun a _ => devOpenRefused_advances a) fun _ =>
    .finish ⟨(h.store.opened hname).inv_commit (by decide), .opened name rfl rfl rfl rfl (List.mem_of_getLast? h.last)⟩

theorem devOpenOpened_advances {name : List Byte} (a : Answer) (h : HasAsked .devOpen (.openDev name) s) :
    Ensures (Advances .devOpen s.handle) (devOpenOpened name a s) :=
  .ite (fun _ => .raise ⟨h.store.closed.inv_commit (by decide), .failed rfl rfl rfl rfl⟩) fun _ =>
    h.envRequest ⟨h.fits, rfl, rfl⟩ fun a _ => devOpenConfigured_advances a

theorem devOpenRequest_advances (h : UnderWay .devOpen s) : Ensures (Advances .devOpen s.handle) (devOpenRequest s) :=
  h.envRequest s.regs.length_deviceName fun a _ => devOpenOpened_advances a

theorem execDevOpen_advances (h : UnderWay .devOpen s) : Ensures (Advances .devOpen s.handle) (execDevOpen s) :=
  .ite (fun _ => h.envRequest trivial fun _ _ h => devOpenRequest_advances h.toUnderWay) fun _ => devOpenRequest_advances h

/-! DEV_READ (R186), DEV_WRITE (R187), DEV_CLOSE (R188) and SEND_UDP (R200). -/

theorem devReadAnswered_advances (a : Answer) (h : HasAsked .devRead .rx s) :
    Ensures (Advances .devRead s.handle) (devReadAnswered a s) := by
  obtain ⟨-, hmax⟩ := h.fits
  cases a with
  | data d => exact .finish (h.store.received ((List.length_take_le _ d).trans hmax)).advances
  | ok => exact .raise h.store.advances
  | fail => exact .raise h.store.advances

theorem execDevRead_advances (h : UnderWay .devRead s) : Ensures (Advances .devRead s.handle) (execDevRead s) :=
  .ite (fun _ => .raise h.store.advances) fun hmax =>
    .ite (fun ho => h.envRequest ⟨ho, Nat.not_lt.mp hmax⟩ fun a _ => devReadAnswered_advances a) fun _ =>
      .raise h.store.advances

theorem devWriteAnswered_advances (a : Answer) (h : UnderWay i s) :
    Ensures (Advances i s.handle) (devWriteAnswered a s) :=
  .ite (fun _ => .raise h.store.advances) fun _ => .finish h.store.advances

theorem transmit_advances {arg0 : Bool} (d : List Byte) (h : UnderWay (.devWrite arg0) s) :
    Ensures (Advances (.devWrite arg0) s.handle) (transmit arg0 d s) :=
  .ite (fun ho => h.envRequest ho fun a _ h => devWriteAnswered_advances a h.toUnderWay) fun _ => .raise h.store.advances

theorem execDevWrite_advances {arg0 : Bool} (h : UnderWay (.devWrite arg0) s) :
    Ensures (Advances (.devWrite arg0) s.handle) (execDevWrite arg0 s) :=
  .ite (fun _ => transmit_advances _ h) fun _ => .withInput h.store.advances fun _ => transmit_advances _ h

theorem devCloseAnswered_advances (a : Answer) (h : UnderWay .devClose s) :
    Ensures (Advances .devClose s.handle) (devCloseAnswered a s) :=
  .finish ⟨h.store.closed.inv_commit (by decide), .closed rfl rfl rfl⟩

theorem execDevClose_advances (h : UnderWay .devClose s) : Ensures (Advances .devClose s.handle) (execDevClose s) :=
  .ite (fun ho => h.envRequest ho fun a _ h => devCloseAnswered_advances a h.toUnderWay) fun _ => .finish h.store.advances

theorem sendUdpAnswered_advances {d : List Byte} (a : Answer) (h : HasAsked .sendUdp (.tx d) s) :
    Ensures (Advances .sendUdp s.handle) (sendUdpAnswered a s) := by
  obtain ⟨-, hfits⟩ := h.fits
  have emitted := h.store.emit (s.udpDatagram_fits (p := s.udpPayload) (by simpa [State.udpPayload] using hfits))
  exact .ite (fun _ => .raise emitted.advances) fun _ => .finish emitted.advances

theorem execSendUdp_advances (h : UnderWay .sendUdp s) : Ensures (Advances .sendUdp s.handle) (execSendUdp s) :=
  .withUdpPayload h.store.advances h.store.advances fun hfits =>
    .ite (fun ho => h.envRequest ⟨ho, by simpa using hfits⟩ fun a _ => sendUdpAnswered_advances a) fun _ =>
      .raise (h.store.emit (s.udpDatagram_fits hfits)).advances

/-! The commands that ask nothing. -/

theorem execCsum_advances (h : UnderWay i s) : Ensures (Advances i s.handle) (execCsum s) :=
  .withInput h.store.advances fun hfits => .finish (h.store.setChecksum hfits _).advances

theorem execCsumUdp_advances (h : UnderWay i s) : Ensures (Advances i s.handle) (execCsumUdp s) :=
  .withInput h.store.advances fun hfits => .finish (h.store.setChecksum hfits _).advances

/-- `put` writes an address register. -/
theorem parseInto_advances {put : Regs → Word → Regs}
    (hput : ∀ v, State.SoundStore { s with regs := put s.regs v }) (h : UnderWay i s) :
    Ensures (Advances i s.handle) (parseInto put s) :=
  .withInput h.store.advances fun _ => by
    cases parseAddr s.input with
    | none => exact .raise h.store.advances
    | some v => exact .finish (hput v).advances

theorem execTcpEnc_advances (h : UnderWay i s) : Ensures (Advances i s.handle) (execTcpEnc s) :=
  .withInput h.store.advances fun hfits => .finish (h.store.emit (s.regs.tcpArtifact_fits hfits)).advances

theorem execUdpEnc_advances (h : UnderWay i s) : Ensures (Advances i s.handle) (execUdpEnc s) :=
  .withUdpPayload h.store.advances h.store.advances fun hfits =>
    .finish (h.store.emit (s.regs.udpArtifact_fits hfits)).advances

theorem exec_advances (h : UnderWay i s) : Ensures (Advances i s.handle) (exec i s) := by
  cases i with
  | nop => exact .finish h.store.advances
  | csum => exact execCsum_advances h
  | csumUdp => exact execCsumUdp_advances h
  | parseSrc => exact exec_parseSrc s ▸ parseInto_advances (fun _ => { h.store with }) h
  | parseDst => exact exec_parseDst s ▸ parseInto_advances (fun _ => { h.store with }) h
  | ipEnc => exact .finish (h.store.emit s.ipArtifact_fits).advances
  | tcpEnc => exact execTcpEnc_advances h
  | udpEnc => exact execUdpEnc_advances h
  | sendUdp => exact execSendUdp_advances h
  | devOpen => exact execDevOpen_advances h
  | devRead => exact execDevRead_advances h
  | devWrite arg0 => exact execDevWrite_advances h
  | devClose => exact execDevClose_advances h

/-- The answer to a request of the command's own. -/
theorem resume_advances {req : EnvReq} {refused : Bool} (a : Answer) (h : HasAsked i req s) :
    Ensures (Advances i s.handle) (resume i req refused a s) := by
  cases req with
  | openDev name =>
    cases i
    case devOpen => exact devOpenOpened_advances a h
    all_goals exact False.elim h.fits
  | config name tun noPi =>
    cases i
    case devOpen => exact devOpenConfigured_advances a h
    all_goals exact False.elim h.fits
  | rx =>
    cases i
    case devRead => exact devReadAnswered_advances a h
    all_goals exact False.elim h.fits
  | tx d =>
    cases i
    case sendUdp => exact sendUdpAnswered_advances a h
    case devWrite arg0 => exact devWriteAnswered_advances a h.toUnderWay
    all_goals exact False.elim h.fits
  | close =>
    cases i
    case devOpen =>
      exact .ite (fun _ => devOpenRefused_advances a h) fun _ => devOpenRequest_advances h.toUnderWay
    case devClose => exact devCloseAnswered_advances a h.toUnderWay
    all_goals exact False.elim h.fits

end

/-! ### The turns -/

section
variable {s t : State}

/-- The invariant does not speak of what happens next, of the last bus response, or of the draws. -/
theorem State.Inv.bus (h : s.Inv) (inputs : List Event) (resp : Response) (draws : Nat) :
    State.Inv { s with inputs := inputs, resp := resp, draws := draws } :=
  { h with }

/-- A turn of the engine: a command under way advances, EILL is committed, or nothing changes. -/
theorem engineTurn_advances (h : s.Inv) (ht : engineTurn s = .next t) :
    (∃ i, s.runs i ∧ Advances i s.handle t) ∨ (t.Inv ∧ t.handle = s.handle) := by
  obtain ⟨v, i, hp, hdecode, ht⟩ | ⟨v, x, -, -, rfl⟩ | ⟨-, rfl⟩ := engineTurn_next ht
  · rw [← encode_of_decode hdecode] at hp
    exact .inl ⟨i, .inl hp, exec_advances (h.underWay hp) t ht⟩
  · exact .inr ⟨h.soundStore.inv_commit (by decide), rfl⟩
  · exact .inr ⟨h, rfl⟩

/-- A turn of the environment: the waiting command advances. -/
theorem environmentTurn_advances {a : Answer} (h : s.Inv) (ht : environmentTurn a s = .next t) :
    ∃ i, s.runs i ∧ Advances i s.handle t := by
  obtain ⟨i, req, refused, hp, -, ht⟩ := environmentTurn_next ht
  exact ⟨i, .inr ⟨req, refused, hp⟩, resume_advances a (h.hasAsked hp) t ht⟩

theorem State.Inv.busRead (h : s.Inv) (w : Width) (g : Target) : (s.busRead w g).Inv := by
  unfold State.busRead
  split
  · exact h.bus ..
  · exact h.bus ..
  all_goals split <;> exact h.bus ..

/-- `STATUS` may be written at any time, as long as ERR and DEVSUB stay, and DONE is not set (R27, R67). -/
theorem State.Inv.setStatus (h : s.Inv) {f : Status} (herr : f.err = s.status.err) (hdevsub : f.devsub = s.status.devsub)
    (hdone : s.status.done = false → f.done = false) : State.Inv { s with status := f } :=
  { h with
    devsubOfEdev := by simpa [herr, hdevsub] using h.devsubOfEdev
    busyClear := fun hbusy => by
      obtain ⟨done, err, devsub⟩ := h.busyClear hbusy
      exact ⟨hdone done, herr.trans err, hdevsub.trans devsub⟩ }

theorem State.Inv.accept (h : s.Inv) (v : Word) : (s.accept v).Inv :=
  { h.soundStore with
    devsubOfEdev := by simp [Status.accepted]
    busyClear := fun _ => ⟨rfl, rfl, rfl⟩
    busyCmd := fun _ heq => by cases heq; rfl
    waitCmd := fun _ _ _ heq => nomatch heq
    waitReq := fun _ _ _ heq => nomatch heq
    waitSent := fun _ _ _ heq => nomatch heq
    waitRefused := fun _ _ heq => nomatch heq }

/-- R67, R93, R24: a write to a register, carried out or dropped. -/
theorem State.Inv.storeTo_reg (h : s.Inv) (w : Width) (v : Word) (r : Reg) : (s.storeTo w v (.reg r)).Inv := by
  by_cases hstatus : r = .status
  · subst hstatus
    exact h.setStatus rfl rfl fun hdone => by simp [Status.hostWrite, hdone]
  by_cases hidle : s.phase = .idle
  · by_cases hcmd : r = .cmd
    · subst hcmd
      have store : s.storeTo w v (.reg .cmd) = s.accept v := by simp [State.storeTo, hidle, Phase.isBusy]
      exact store ▸ h.accept v
    · rw [State.storeTo_operand w v hstatus hcmd hidle]
      exact (h.soundStore.hostWrite r v).inv_of_idle hidle h.devsubOfEdev
  · rw [State.storeTo_of_busy w v hidle (by simpa using hstatus)]
    exact h.setStatus rfl rfl id

/-- R67, R64: a write to `IBUF`, carried out or dropped. -/
theorem State.Inv.storeTo_ibuf (h : s.Inv) {w : Width} {v : Word} {off : Nat}
    (hfits : off + (writtenBytes w v).length ≤ 65536) : (s.storeTo w v (.buf .ibuf off)).Inv := by
  by_cases hidle : s.phase = .idle
  · rw [State.storeTo_buf_of_idle w v .ibuf off hidle]
    exact (h.soundStore.memWrite (by simpa [Buf.size] using hfits)).inv_of_idle hidle h.devsubOfEdev
  · rw [State.storeTo_of_busy w v hidle (by simp)]
    exact h.setStatus rfl rfl id

theorem hostTurn_inv {a : Access} (h : s.Inv) (ht : hostTurn a s = .next t) : t.Inv := by
  obtain ⟨hs, ⟨w, addr, g, -, -, rfl⟩ | ⟨w, addr, v, g, rfl, hg, rfl⟩⟩ := hostTurn_next ht
  · exact h.busRead w g
  · have stored : (s.storeTo w v g).Inv := by
      obtain ⟨r, rfl, -, -⟩ | ⟨off, rfl, -, hfits⟩ := write_reaches hs hg
      · exact h.storeTo_reg w v r
      · exact h.storeTo_ibuf hfits
    exact stored.bus ..

theorem resetTurn_inv (s : State) : (resetTurn s).Inv :=
  State.SoundStore.inv_of_idle
    { memWf := List.Pairwise.nil
      memInBuffers := fun _ hc => nomatch hc
      olenBound := by simp [Regs.reset]
      rlenBound := by simp [Regs.reset]
      accBound := by simp [Regs.reset]
      tcpctlReserved := by simp [Regs.reset]
      ipcfgReserved := by simp [Regs.reset]
      plenReserved := by simp [Regs.reset]
      handleName := fun _ heq => nomatch heq }
    rfl (by simp [Status.reset])

theorem State.storeTo_handle_sent (s : State) (w : Width) (v : Word) (g : Target) :
    (s.storeTo w v g).handle = s.handle ∧ (s.storeTo w v g).sent = s.sent := by
  unfold State.storeTo
  split
  · exact ⟨rfl, rfl⟩
  all_goals split <;> exact ⟨rfl, rfl⟩

/-- A host access changes the handle and sends requests in no phase. -/
theorem hostTurn_handle_sent {a : Access} (h : hostTurn a s = .next t) : t.handle = s.handle ∧ t.sent = s.sent := by
  obtain ⟨-, ⟨w, addr, g, -, -, rfl⟩ | ⟨w, addr, v, g, -, -, rfl⟩⟩ := hostTurn_next h
  · obtain ⟨-, hhandle, hsent⟩ := s.busRead_sameWait w g
    exact ⟨hhandle, hsent⟩
  · exact s.storeTo_handle_sent w v g

/-- What a step from a sound state can be: the command under way advances, or the handle is left alone, or it is a reset. -/
theorem step_advances (h : s.Inv) (ht : step s = .next t) :
    (∃ i, s.runs i ∧ Advances i s.handle t) ∨ (t.Inv ∧ t.handle = s.handle) ∨
    (∃ rest, s.inputs = .reset :: rest ∧ t = resetTurn { s with inputs := rest }) := by
  have hin (rest : List Event) : State.Inv { s with inputs := rest } := h.bus rest s.resp s.draws
  obtain ⟨-, ht⟩ | ⟨rest, -, ht⟩ | ⟨a, rest, -, ht⟩ | ⟨a, rest, -, ht⟩ | reset := step_next ht
  · exact (engineTurn_advances h ht).imp id .inl
  · exact (engineTurn_advances (hin rest) ht).imp id .inl
  · obtain ⟨hhandle, -⟩ := hostTurn_handle_sent ht
    exact .inr (.inl ⟨hostTurn_inv (hin rest) ht, hhandle⟩)
  · exact .inl (environmentTurn_advances (s := { s with inputs := rest }) (hin rest) ht)
  · exact .inr (.inr reset)

end

/-- Settles O60: where a command advances, where nothing is under way, and after a reset. -/
theorem stepKeepsInvariant : Obligations.StepKeepsInvariant := by
  intro s t h ht
  obtain ⟨i, -, hinv, -⟩ | ⟨hinv, -⟩ | ⟨rest, -, rfl⟩ := step_advances h ht
  · exact hinv
  · exact hinv
  · exact resetTurn_inv _

/-- Settles O54: only a command under way and a reset can change the handle, the command by `HandleRule`. -/
theorem handleChangesOnly : Obligations.HandleChangesOnly := by
  intro s t h ht hne
  obtain ⟨i, hruns, -, hrule⟩ | ⟨-, hkept⟩ | ⟨rest, hi, rfl⟩ := step_advances h ht
  · cases hrule with
    | kept hh => exact absurd hh hne
    | opened name hi hphase hh herr hsent =>
      subst hi
      refine ⟨hphase, fun name' heq => ?_, fun heq => ?_⟩
      · cases hh.symm.trans heq
        exact ⟨hruns, herr, hsent⟩
      · cases hh.symm.trans heq
    | failed hi hphase hh herr =>
      subst hi
      exact ⟨hphase, fun name heq => (nomatch hh.symm.trans heq), fun _ => .inl ⟨hruns, herr⟩⟩
    | closed hi hphase hh =>
      subst hi
      exact ⟨hphase, fun name heq => (nomatch hh.symm.trans heq), fun _ => .inr (.inl hruns)⟩
  · exact absurd hkept hne
  · exact ⟨rfl, fun name heq => (nomatch heq), fun _ => .inr (.inr ⟨rest, hi⟩)⟩

end Sys2Proof.Machine
end

section
/-!
The environment port (44_device.md): who sends a request (R180), which answers stop the model (R181), and what the device
commands do with each answer (R185-R188).
-/

namespace Sys2Proof.Machine

/-! ### The log of requests only grows (R180) -/

section
variable {l : List EnvReq} {s t : State}

/-- The log of `t` is `l`, or `l` and further requests after it. -/
def Extends (l : List EnvReq) (t : State) : Prop := ∃ new, t.sent = l ++ new

theorem Extends.refl (s : State) : Extends s.sent s := ⟨[], (List.append_nil _).symm⟩

theorem Extends.send (h : Extends l s) (i : Instr) (req : EnvReq) (refused : Bool) : Extends l (s.send i req refused) := by
  obtain ⟨new, hnew⟩ := h
  exact ⟨new ++ [req], by simp [hnew]⟩

theorem Extends.envRequest {i : Instr} {req : EnvReq} {k : Answer → State → Result} {refused : Bool} (h : Extends l s)
    (hk : ∀ a u, Extends l u → Ensures (Extends l) (k a u)) : Ensures (Extends l) (envRequest i req k s refused) :=
  .envRequest (h.send i req refused) fun a _ => hk a _ (h.send i req refused)

theorem devOpenRefused_extends (a : Answer) (s : State) (h : Extends l s) : Ensures (Extends l) (devOpenRefused a s) :=
  .raise h

theorem devOpenConfigured_extends (name : List Byte) (a : Answer) (s : State) (h : Extends l s) :
    Ensures (Extends l) (devOpenConfigured name a s) :=
  .ite (fun _ => h.envRequest devOpenRefused_extends) fun _ => .finish h

theorem devOpenOpened_extends (name : List Byte) (a : Answer) (s : State) (h : Extends l s) :
    Ensures (Extends l) (devOpenOpened name a s) :=
  .ite (fun _ => .raise h) fun _ => h.envRequest (devOpenConfigured_extends name)

theorem devOpenRequest_extends (h : Extends l s) : Ensures (Extends l) (devOpenRequest s) :=
  h.envRequest (devOpenOpened_extends s.regs.deviceName)

theorem devReadAnswered_extends (a : Answer) (s : State) (h : Extends l s) : Ensures (Extends l) (devReadAnswered a s) := by
  cases a with
  | data d => exact .finish h
  | ok => exact .raise h
  | fail => exact .raise h

theorem devWriteAnswered_extends (a : Answer) (s : State) (h : Extends l s) : Ensures (Extends l) (devWriteAnswered a s) :=
  .ite (fun _ => .raise h) fun _ => .finish h

theorem devCloseAnswered_extends (a : Answer) (s : State) (h : Extends l s) : Ensures (Extends l) (devCloseAnswered a s) :=
  .finish h

theorem sendUdpAnswered_extends (a : Answer) (s : State) (h : Extends l s) : Ensures (Extends l) (sendUdpAnswered a s) :=
  .ite (fun _ => .raise h) fun _ => .finish h

theorem transmit_extends (arg0 : Bool) (d : List Byte) (h : Extends l s) : Ensures (Extends l) (transmit arg0 d s) :=
  .ite (fun _ => h.envRequest devWriteAnswered_extends) fun _ => .raise h

theorem parseInto_extends (put : Regs → Word → Regs) (h : Extends l s) : Ensures (Extends l) (parseInto put s) :=
  .withInput h fun _ => by
    cases parseAddr s.input with
    | none => exact .raise h
    | some v => exact .finish h

theorem execCsum_extends (h : Extends l s) : Ensures (Extends l) (execCsum s) := .withInput h fun _ => .finish h

theorem execCsumUdp_extends (h : Extends l s) : Ensures (Extends l) (execCsumUdp s) := .withInput h fun _ => .finish h

theorem execTcpEnc_extends (h : Extends l s) : Ensures (Extends l) (execTcpEnc s) := .withInput h fun _ => .finish h

theorem execUdpEnc_extends (h : Extends l s) : Ensures (Extends l) (execUdpEnc s) := .withUdpPayload h h fun _ => .finish h

theorem execSendUdp_extends (h : Extends l s) : Ensures (Extends l) (execSendUdp s) :=
  .withUdpPayload h h fun _ => .ite (fun _ => h.envRequest sendUdpAnswered_extends) fun _ => .raise h

theorem execDevOpen_extends (h : Extends l s) : Ensures (Extends l) (execDevOpen s) :=
  .ite (fun _ => h.envRequest fun _ _ => devOpenRequest_extends) fun _ => devOpenRequest_extends h

theorem execDevRead_extends (h : Extends l s) : Ensures (Extends l) (execDevRead s) :=
  .ite (fun _ => .raise h) fun _ => .ite (fun _ => h.envRequest devReadAnswered_extends) fun _ => .raise h

theorem execDevWrite_extends (arg0 : Bool) (h : Extends l s) : Ensures (Extends l) (execDevWrite arg0 s) :=
  .ite (fun _ => transmit_extends arg0 _ h) fun _ => .withInput h fun _ => transmit_extends arg0 _ h

theorem execDevClose_extends (h : Extends l s) : Ensures (Extends l) (execDevClose s) :=
  .ite (fun _ => h.envRequest devCloseAnswered_extends) fun _ => .finish h

theorem exec_extends (i : Instr) (h : Extends l s) : Ensures (Extends l) (exec i s) := by
  cases i with
  | nop => exact .finish h
  | csum => exact execCsum_extends h
  | csumUdp => exact execCsumUdp_extends h
  | parseSrc => exact exec_parseSrc s ▸ parseInto_extends _ h
  | parseDst => exact exec_parseDst s ▸ parseInto_extends _ h
  | ipEnc => exact .finish h
  | tcpEnc => exact execTcpEnc_extends h
  | udpEnc => exact execUdpEnc_extends h
  | sendUdp => exact execSendUdp_extends h
  | devOpen => exact execDevOpen_extends h
  | devRead => exact execDevRead_extends h
  | devWrite arg0 => exact execDevWrite_extends arg0 h
  | devClose => exact execDevClose_extends h

theorem resume_extends (i : Instr) (req : EnvReq) (refused : Bool) (a : Answer) (h : Extends l s) :
    Ensures (Extends l) (resume i req refused a s) := by
  cases req with
  | openDev name => exact devOpenOpened_extends name a s h
  | config name tun noPi => exact devOpenConfigured_extends name a s h
  | rx => exact devReadAnswered_extends a s h
  | tx d =>
    cases i
    case sendUdp => exact sendUdpAnswered_extends a s h
    all_goals exact devWriteAnswered_extends a s h
  | close =>
    cases i
    case devOpen => exact .ite (fun _ => devOpenRefused_extends a s h) fun _ => devOpenRequest_extends h
    all_goals exact devCloseAnswered_extends a s h

/-- What a step adds to the log of requests, and when it may. -/
def SendsBy (allowed : Prop) (s t : State) : Prop := ∃ new, t.sent = s.sent ++ new ∧ (new ≠ [] → allowed)

theorem SendsBy.of_same {allowed : Prop} (h : t.sent = s.sent) : SendsBy allowed s t := ⟨[], by simp [h], by simp⟩

theorem SendsBy.of_extends {allowed : Prop} (h : Extends s.sent t) (hallowed : allowed) : SendsBy allowed s t := by
  obtain ⟨new, hnew⟩ := h
  exact ⟨new, hnew, fun _ => hallowed⟩

theorem engineTurn_sendsBy {other : Prop} (h : engineTurn s = .next t) : SendsBy (s.phase ≠ .idle ∨ other) s t := by
  obtain ⟨v, i, hp, -, h⟩ | ⟨v, x, -, -, rfl⟩ | ⟨-, rfl⟩ := engineTurn_next h
  · exact .of_extends (exec_extends i (.refl s) t h) (.inl (by simp [hp]))
  · exact .of_same rfl
  · exact .of_same rfl

theorem environmentTurn_sendsBy {a : Answer} {other : Prop} (h : environmentTurn a s = .next t) :
    SendsBy (s.phase ≠ .idle ∨ other) s t := by
  obtain ⟨i, req, refused, hp, -, h⟩ := environmentTurn_next h
  exact .of_extends (resume_extends i req refused a (.refl s) t h) (.inl (by simp [hp]))

/-- R250: a descriptor may exist while a command waits, or with the handle OPEN. -/
theorem State.mayHoldDescriptor_imp (h : s.mayHoldDescriptor = true) : s.phase ≠ .idle ∨ s.handle ≠ .closed := by
  obtain h | h := Bool.or_eq_true_iff.mp h
  · exact .inr (by simpa [Handle.isOpen_eq_decide] using h)
  · exact .inl fun hidle => by simp [hidle] at h

theorem resetTurn_sendsBy (s : State) : SendsBy (s.phase ≠ .idle ∨ s.handle ≠ .closed) s (resetTurn s) := by
  by_cases hd : s.mayHoldDescriptor = true
  · exact ⟨[.close], if_pos hd, fun _ => State.mayHoldDescriptor_imp hd⟩
  · exact .of_same (if_neg hd)

end

/-- Settles O56: what each turn adds to the log. -/
theorem requestsOnlyByCommands : Obligations.RequestsOnlyByCommands := by
  intro s t h
  obtain ⟨-, h⟩ | ⟨rest, -, h⟩ | ⟨a, rest, -, h⟩ | ⟨a, rest, -, h⟩ | ⟨rest, hi, rfl⟩ := step_next h
  · exact engineTurn_sendsBy h
  · exact engineTurn_sendsBy (s := { s with inputs := rest }) h
  · obtain ⟨-, hsent⟩ := hostTurn_handle_sent h
    exact SendsBy.of_same hsent
  · exact environmentTurn_sendsBy (s := { s with inputs := rest }) h
  · obtain ⟨new, hnew, hwhen⟩ := resetTurn_sendsBy { s with inputs := rest }
    exact ⟨new, hnew, fun hne => (hwhen hne).imp id fun hopen => ⟨hopen, rest, hi⟩⟩

/-! ### Answers that stop the model, and answers that do not (R180, R181) -/

theorem excludedAnswer_iff (req : EnvReq) (a : Answer) : ExcludedAnswer req a ↔ req.allows a = false := by
  cases req <;> cases a <;> simp [ExcludedAnswer, EnvReq.allows]

/-- The outcome is a next state. -/
def Continues (r : Result) : Prop := ∃ t, r = .next t

section
variable {s : State}

theorem Continues.ite {c : Prop} [Decidable c] {r r' : Result} (h : Continues r) (h' : Continues r') :
    Continues (if c then r else r') := by
  split
  · exact h
  · exact h'

theorem Continues.raise {e : ErrCode} {d : DevSub} : Continues (raise e d s) := ⟨_, rfl⟩

theorem Continues.finish : Continues (finish s) := ⟨_, rfl⟩

theorem Continues.envRequest {i : Instr} {req : EnvReq} {k : Answer → State → Result} {refused : Bool}
    (h : NoAnswerNext s) : Continues (envRequest i req k s refused) := ⟨_, envRequest_of_noAnswer h⟩

theorem devReadAnswered_continues (a : Answer) (s : State) : Continues (devReadAnswered a s) := by
  cases a with
  | data d => exact .finish
  | ok => exact .raise
  | fail => exact .raise

/-- Whatever the answer is, the command goes on with it: to its commit, or to a next request, which waits. -/
theorem resume_continues (i : Instr) (req : EnvReq) (refused : Bool) (a : Answer) (h : NoAnswerNext s) :
    Continues (resume i req refused a s) := by
  cases req with
  | openDev name => exact .ite .raise (.envRequest h)
  | config name tun noPi => exact .ite (.envRequest h) .finish
  | rx => exact devReadAnswered_continues a s
  | tx d =>
    cases i
    all_goals exact .ite .raise .finish
  | close =>
    cases i
    case devOpen => exact .ite .raise (.envRequest h)
    all_goals exact .finish

end

theorem environmentTurn_of_not_wait {s : State} (h : ∀ i req refused, s.phase ≠ .waitEnv i req refused) (a : Answer) :
    environmentTurn a s = .fault .unsolicitedAnswer := by
  unfold environmentTurn
  split
  · next i req refused hp => exact absurd hp (h i req refused)
  · rfl
  · rfl

/-- Settles O11: the environment's turn asks whether a command waits, and then R180's table. -/
theorem unsolicitedAnswerStops : Obligations.UnsolicitedAnswerStops := by
  intro s a rest hi
  rw [step_of_answer hi]
  refine ⟨fun h => environmentTurn_of_not_wait (s := { s with inputs := rest }) h a, fun i req refused hp => ?_⟩
  rw [environmentTurn_of_wait (s := { s with inputs := rest }) hp a, excludedAnswer_iff, takeAnswer]
  constructor
  · intro hexcluded
    exact if_neg (by simp [hexcluded])
  · intro hallowed hnext
    rw [if_pos (by simpa using hallowed)]
    exact resume_continues (s := { s with inputs := rest }) i req refused a hnext

/-! ### A request and its answer -/

theorem Handle.isOpen_of_ne_closed {h : Handle} (hne : h ≠ .closed) : h.isOpen = true := by
  simp [Handle.isOpen_eq_decide, hne]

theorem Handle.not_isOpen_of_closed {h : Handle} (hc : h = .closed) : ¬ h.isOpen = true := by
  simp [Handle.isOpen_eq_decide, hc]

section
variable {i : Instr} {s : State} {req : EnvReq} {k : Answer → State → Result}

/-- An allowed answer that is next is taken in the step of the request (log 3). -/
theorem envRequest_of_allowed {refused : Bool} {a : Answer} {rest : List Event} (hi : s.inputs = .answer a :: rest)
    (ha : req.allows a = true) :
    envRequest i req k s refused = k a { s.send i req refused with inputs := rest } :=
  (envRequest_of_answer hi).trans (if_pos ha)

/-- R95: with no answer next, a command that comes to a request waits with it. -/
theorem waits_of_envRequest (h : exec i s = envRequest i req k s) (hn : NoAnswerNext s) :
    ∃ t, exec i s = .next t ∧ Waits s t i req :=
  ⟨_, h.trans (envRequest_of_noAnswer hn), rfl⟩

/-- A command that commits with this error after asking `req`, and leaves registers, bytes and handle alone. -/
theorem commits_of_answer {a : Answer} {rest : List Event} {e : ErrCode} {d : DevSub}
    (h : exec i s = envRequest i req k s) (hi : s.inputs = .answer a :: rest) (ha : req.allows a = true)
    (hk : ∀ u, k a u = raise e d u) :
    ∃ t, exec i s = .next t ∧ Committed s t e d ∧ t.regs = s.regs ∧ SameBytes s t ∧ t.handle = s.handle
      ∧ Asked s t [req] rest :=
  ⟨_, h.trans ((envRequest_of_allowed hi ha).trans (hk _)), ⟨rfl, rfl⟩, rfl, fun _ => rfl, rfl, ⟨rfl, rfl, rfl, rfl⟩, rfl, rfl⟩

end

/-! ### DEV_OPEN (R185) -/

section
variable {s : State} {rest : List Event}

/-- R185's first lines: a handle that was OPEN is closed first, and then `Open` goes out. -/
theorem exec_devOpen_closes (hi : s.inputs = (if s.handle = .closed then [] else [.answer .ok]) ++ rest) :
    ∃ phase, exec .devOpen s = devOpenRequest { s with
      phase := phase, inputs := rest, sent := s.sent ++ if s.handle = .closed then [] else [.close] } := by
  by_cases hc : s.handle = .closed
  · have closed : exec .devOpen s = devOpenRequest s := if_neg (Handle.not_isOpen_of_closed hc)
    rw [if_pos hc, List.nil_append] at hi
    subst hi
    simp only [if_pos hc, List.append_nil]
    exact ⟨s.phase, closed⟩
  · have opened : exec .devOpen s = envRequest .devOpen .close devOpenReleased s := if_pos (Handle.isOpen_of_ne_closed hc)
    rw [if_neg hc] at hi
    simp only [if_neg hc]
    exact ⟨_, opened.trans (envRequest_of_allowed hi rfl)⟩

theorem devOpenRequest_of_fail (hi : s.inputs = .answer .fail :: rest) :
    devOpenRequest s = raise .edev .openFailed { s with
      handle := .closed, inputs := rest, sent := s.sent ++ [.openDev s.regs.deviceName] } :=
  envRequest_of_allowed hi rfl

theorem devOpenRequest_of_ok (hi : s.inputs = .answer .ok :: rest) :
    devOpenRequest s = envRequest .devOpen (.config s.regs.deviceName true true) (devOpenConfigured s.regs.deviceName)
      { s.send .devOpen (.openDev s.regs.deviceName) with inputs := rest } :=
  envRequest_of_allowed hi rfl

theorem devOpenRequest_of_ok_ok (hi : s.inputs = .answer .ok :: .answer .ok :: rest) :
    devOpenRequest s = finish { s with
      handle := .opened s.regs.deviceName, inputs := rest
      sent := s.sent ++ [.openDev s.regs.deviceName, .config s.regs.deviceName true true] } := by
  rw [devOpenRequest_of_ok hi, envRequest_of_allowed (a := .ok) (rest := rest) rfl rfl]
  simp [devOpenConfigured, State.send, State.commit]

theorem devOpenRequest_of_ok_fail (hi : s.inputs = .answer .ok :: .answer .fail :: .answer .ok :: rest) :
    devOpenRequest s = raise .edev .configFailed { s with
      handle := .closed, inputs := rest
      sent := s.sent ++ [.openDev s.regs.deviceName, .config s.regs.deviceName true true, .close] } := by
  rw [devOpenRequest_of_ok hi, envRequest_of_allowed (a := .fail) (rest := .answer .ok :: rest) rfl rfl, devOpenConfigured,
    if_pos rfl, envRequest_of_allowed (a := .ok) (rest := rest) rfl rfl]
  simp [devOpenRefused, State.send, State.commit]

/-- DEV_OPEN as far as its commit, by what it does from `Open` on: what it asks and the handle that it leaves. -/
theorem exec_devOpen_commits {more : List Event} {e : ErrCode} {d : DevSub} {handle : Handle} {reqs : List EnvReq}
    (hi : s.inputs = (if s.handle = .closed then [] else [.answer .ok]) ++ more)
    (h : ∀ phase sent, devOpenRequest { s with phase := phase, inputs := more, sent := sent } =
      raise e d { s with phase := phase, handle := handle, inputs := rest, sent := sent ++ reqs }) :
    ∃ t, exec .devOpen s = .next t ∧ Committed s t e d ∧ t.handle = handle ∧ t.regs = s.regs ∧ SameBytes s t
      ∧ Asked s t ((if s.handle = .closed then [] else [.close]) ++ reqs) rest := by
  obtain ⟨phase, hopen⟩ := exec_devOpen_closes hi
  exact ⟨_, hopen.trans (h _ _), ⟨rfl, rfl⟩, rfl, rfl, fun _ => rfl, ⟨rfl, rfl, rfl, rfl⟩, List.append_assoc .., rfl⟩

end

/-- Settles O43: the close of an OPEN handle, and then what each answer to `Open` and `Config` leads to. -/
theorem devOpenResult : Obligations.DevOpenResult := by
  refine ⟨decode_encode .devOpen, fun s rest => ?_⟩
  intro n closing closed
  refine ⟨fun hi => ?_, fun hi => ?_, fun hi => ?_, fun hn => ?_⟩
  · exact exec_devOpen_commits hi fun _ _ => devOpenRequest_of_ok_ok rfl
  · exact exec_devOpen_commits hi fun _ _ => devOpenRequest_of_fail rfl
  · exact exec_devOpen_commits hi fun _ _ => devOpenRequest_of_ok_fail rfl
  · by_cases hc : s.handle = .closed
    · rw [if_pos hc]
      exact waits_of_envRequest (k := devOpenOpened n) (if_neg (Handle.not_isOpen_of_closed hc)) hn
    · rw [if_neg hc]
      exact waits_of_envRequest (k := devOpenReleased) (if_pos (Handle.isOpen_of_ne_closed hc)) hn

/-! ### DEV_READ (R186) -/

theorem exec_devRead_of_data {s : State} {d : List Byte} {rest : List Event}
    (hr : exec .devRead s = envRequest .devRead .rx devReadAnswered s) (hi : s.inputs = .answer (.data d) :: rest) :
    ∃ t, exec .devRead s = .next t ∧ Committed s t .none .none
      ∧ t.memRead .rbuf 0 (min d.length s.regs.rmax.toNat) = d.take s.regs.rmax.toNat
      ∧ SameBytesOutside s t Buf.rbuf.base (min d.length s.regs.rmax.toNat)
      ∧ t.regs.rlen.toNat = min d.length s.regs.rmax.toNat ∧ t.regs = { s.regs with rlen := t.regs.rlen }
      ∧ t.handle = s.handle ∧ Asked s t [.rx] rest := by
  have kept : (d.take s.regs.rmax.toNat).length = min d.length s.regs.rmax.toNat := by
    rw [List.length_take, Nat.min_comm]
  have fits : (d.take s.regs.rmax.toNat).length < 2 ^ 32 := (List.length_take_le _ _).trans_lt s.regs.rmax.isLt
  rw [← kept]
  exact ⟨_, hr.trans (envRequest_of_allowed hi rfl), ⟨rfl, rfl⟩, s.memRead_memWrite .rbuf _,
    fun _ ha => s.byte_memWrite_outside .rbuf 0 _ ha, (BitVec.toNat_ofNat _ _).trans (Nat.mod_eq_of_lt fits), rfl, rfl,
    ⟨rfl, rfl, rfl, rfl⟩, rfl, rfl⟩

/-- Settles O44: the two checks, and then each answer to `Rx`. -/
theorem devReadResult : Obligations.DevReadResult := by
  refine ⟨decode_encode .devRead, fun s => ⟨fun hlong => ?_, fun hmax hc => ?_, fun hmax hopen => ?_⟩⟩
  · exact failsOnly_of_raise (if_pos hlong)
  · exact failsOnly_of_raise ((if_neg (Nat.not_lt.mpr hmax)).trans (if_neg (Handle.not_isOpen_of_closed hc)))
  · have hr : exec .devRead s = envRequest .devRead .rx devReadAnswered s :=
      execDevRead_of_open hmax (Handle.isOpen_of_ne_closed hopen)
    exact ⟨fun d rest hi => exec_devRead_of_data hr hi, fun rest hi => commits_of_answer hr hi rfl fun _ => rfl,
      waits_of_envRequest hr⟩

/-! ### DEV_WRITE (R187) -/

/-- The datagram that DEV_WRITE sends. -/
def State.outgoing (s : State) (arg0 : Bool) : List Byte :=
  if arg0 then s.memRead .obuf 0 s.regs.olen.toNat else s.input

theorem exec_devWrite_of_fits {s : State} {arg0 : Bool} (h : arg0 = true ∨ s.regs.len.toNat ≤ 65536) :
    exec (.devWrite arg0) s = transmit arg0 (s.outgoing arg0) s := by
  cases arg0 with
  | true => rfl
  | false => exact withInput_of_fits (transmit false · s) (h.resolve_left Bool.false_ne_true)

/-- Settles O45: the check of `LEN`, the handle, and then each answer to `Tx`. -/
theorem devWriteResult : Obligations.DevWriteResult := by
  refine ⟨decode_encode (.devWrite false), decode_encode (.devWrite true), fun s arg0 => ?_⟩
  intro d
  refine ⟨?_, fun hfits => ?_⟩
  · rintro rfl hlong
    exact failsOnly_of_long (k := (transmit false · s)) rfl hlong
  · have hw : exec (.devWrite arg0) s = transmit arg0 d s := exec_devWrite_of_fits hfits
    refine ⟨fun hc => failsOnly_of_raise (hw.trans (if_neg (Handle.not_isOpen_of_closed hc))), fun hopen => ?_⟩
    have hr := hw.trans (transmit_of_open (Handle.isOpen_of_ne_closed hopen))
    exact ⟨fun rest hi => commits_of_answer hr hi rfl fun _ => rfl, fun rest hi => commits_of_answer hr hi rfl fun _ => rfl,
      waits_of_envRequest hr⟩

/-! ### DEV_CLOSE (R188) -/

/-- Settles O46: the handle, and then the answer to `Close`. -/
theorem devCloseResult : Obligations.DevCloseResult := by
  refine ⟨decode_encode .devClose, fun s => ⟨fun hc => ?_, fun hopen => ?_⟩⟩
  · have hf : exec .devClose s = finish s := if_neg (Handle.not_isOpen_of_closed hc)
    exact ⟨_, hf, ⟨rfl, rfl⟩, rfl, fun _ => rfl, hc, ⟨rfl, rfl, rfl, rfl⟩, rfl, rfl⟩
  · have hr : exec .devClose s = envRequest .devClose .close devCloseAnswered s :=
      execDevClose_of_open (Handle.isOpen_of_ne_closed hopen)
    refine ⟨fun rest hi => ?_, waits_of_envRequest hr⟩
    exact ⟨_, hr.trans (envRequest_of_allowed hi rfl), ⟨rfl, rfl⟩, rfl, fun _ => rfl, rfl, ⟨rfl, rfl, rfl, rfl⟩, rfl, rfl⟩

end Sys2Proof.Machine
end

section
/-!
The client façade (45_facade.md): what SEND_UDP leaves and sends (R200), and its datagram as IP_ENC's header before UDP_ENC's
segment (R201).
-/

namespace Sys2Proof.Machine

/-! ### A commit with an artifact -/

section
variable {i : Instr} {s u : State} {x : Artifact} {e : ErrCode} {d : DevSub}

/-- What a commit leaves of an artifact that fits, where nothing was stored before (R47, R70). -/
theorem Artifact.Fits.emitted (hx : x.Fits) (h : SameStore s u) : Emitted s ((u.emit x).commit e d) x.bytes x.sum x.result := by
  have hregs : u.regs = s.regs := h.1
  have length : x.bytes.length < 2 ^ 32 := hx.length.trans_lt (by decide)
  have sum : x.sum < 2 ^ 32 := hx.sum.trans_lt (by decide)
  refine ⟨u.memRead_emit x, fun a ha => (u.byte_emit_outside x a ha).trans (h.sameBytes a), ?_, ?_, rfl, ?_⟩
  · simpa using length
  · simpa using sum
  · simp [hregs]

/-- A command that writes an artifact and commits without asking anything. -/
theorem emitted_of_raise (hx : x.Fits) (h : exec i s = raise e d (s.emit x)) :
    ∃ t, exec i s = .next t ∧ Committed s t e d ∧ Emitted s t x.bytes x.sum x.result ∧ t.handle = s.handle ∧ Untouched s t :=
  ⟨_, h, ⟨rfl, rfl⟩, hx.emitted ⟨rfl, rfl, rfl⟩, rfl, ⟨rfl, rfl, rfl, rfl⟩, rfl, rfl⟩

/-- A command that asks `req`, and at the answer writes an artifact and commits. -/
theorem emitted_of_answer {req : EnvReq} {k : Answer → State → Result} {a : Answer} {rest : List Event} (hx : x.Fits)
    (h : exec i s = envRequest i req k s) (hi : s.inputs = .answer a :: rest) (ha : req.allows a = true)
    (hk : ∀ u, SameStore s u → u.ipId = s.ipId → k a u = raise e d (u.emit x)) :
    ∃ t, exec i s = .next t ∧ Committed s t e d ∧ Emitted s t x.bytes x.sum x.result ∧ t.handle = s.handle
      ∧ Asked s t [req] rest :=
  ⟨_, h.trans ((envRequest_of_allowed hi ha).trans (hk _ ⟨rfl, rfl, rfl⟩ rfl)), ⟨rfl, rfl⟩, hx.emitted ⟨rfl, rfl, rfl⟩, rfl,
    ⟨rfl, rfl, rfl, rfl⟩, rfl, rfl⟩

end

/-! ### SEND_UDP (R200) -/

section
variable {s t u : State}

theorem exec_sendUdp (s : State) :
    exec .sendUdp s = withUdpPayload s fun p =>
      if s.handle.isOpen then envRequest .sendUdp (.tx (s.udpDatagram p).bytes) sendUdpAnswered s
      else raise .edev .notOpen (s.emit (s.udpDatagram p)) := rfl

theorem exec_sendUdp_of_closed (hfits : s.regs.len.toNat ≤ 65527) (hc : s.handle = .closed) :
    exec .sendUdp s = raise .edev .notOpen (s.emit (s.udpDatagram s.input)) :=
  (exec_sendUdp s).trans ((withUdpPayload_of_fits _ hfits).trans (if_neg (Handle.not_isOpen_of_closed hc)))

theorem exec_sendUdp_of_open (hfits : s.regs.len.toNat ≤ 65527) (ho : s.handle ≠ .closed) :
    exec .sendUdp s = envRequest .sendUdp (.tx (s.udpDatagram s.input).bytes) sendUdpAnswered s :=
  execSendUdp_of_open hfits (Handle.isOpen_of_ne_closed ho)

theorem State.udpDatagram_fits_input (hfits : s.regs.len.toNat ≤ 65527) : (s.udpDatagram s.input).Fits :=
  s.udpDatagram_fits (s.length_input.trans_le hfits)

/-- The datagram is read from the registers and the bytes. -/
theorem State.udpDatagram_congr (h : SameStore s u) (hid : u.ipId = s.ipId) :
    u.udpDatagram u.udpPayload = s.udpDatagram s.input := by
  obtain ⟨hregs, hmem, hresets⟩ := h
  simp only [State.udpDatagram, State.udpPayload, State.input, State.memRead, State.byte, hid, hregs, hmem, hresets]

/-- A refused datagram: the results are written all the same, at the commit (log 17). -/
theorem sendUdpAnswered_fail (h : SameStore s u) (hid : u.ipId = s.ipId) :
    sendUdpAnswered .fail u = raise .edev .writeFailed (u.emit (s.udpDatagram s.input)) := by
  rw [sendUdpAnswered, State.udpDatagram_congr h hid, if_pos rfl]

theorem sendUdpAnswered_of_ne_fail {a : Answer} (ha : a ≠ .fail) (h : SameStore s u) (hid : u.ipId = s.ipId) :
    sendUdpAnswered a u = raise .none .none (u.emit (s.udpDatagram s.input)) := by
  rw [sendUdpAnswered, State.udpDatagram_congr h hid, if_neg ha, finish, raise]

end

theorem extractLsb'_zext32 (v : Half) : (zext32 v).extractLsb' 0 16 = v := by
  rw [zext32, BitVec.extractLsb'_setWidth_of_le (by decide), BitVec.extractLsb'_eq_self]

/-- Settles O47: the datagram with its parts written out from the registers, the ranges of `LEN`, the handle, and then each
answer to `Tx`. -/
theorem sendUdpResult : Obligations.SendUdpResult := by
  refine ⟨decode_encode .sendUdp, fun s => ?_⟩
  intro g ttl seg h0 d result
  have datagram : s.udpDatagram s.input = { bytes := d, sum := sum16 h0, result := result } := by
    have checksums : seg.result.extractLsb' 0 16 = udpChecksum g.srcAddr g.dstAddr g.sport g.dport s.input :=
      extractLsb'_zext32 _
    simp only [State.udpDatagram, State.length_input, result, checksums]
    rfl
  clear_value d result h0
  refine ⟨failsOnly_of_long (exec_sendUdp s),
    fun hsize hfits => failsOnly_of_raise ((exec_sendUdp s).trans (withUdpPayload_of_oversize _ hsize hfits)),
    fun hfits => ?_⟩
  have fits := State.udpDatagram_fits_input hfits
  refine ⟨fun hc => ?_, fun ho => ?_⟩
  · have run := exec_sendUdp_of_closed hfits hc
    rw [datagram] at fits run
    exact emitted_of_raise fits run
  · have request := exec_sendUdp_of_open hfits ho
    have ok := fun u => sendUdpAnswered_of_ne_fail (s := s) (u := u) (a := .ok) (by decide)
    have fail := fun u => sendUdpAnswered_fail (s := s) (u := u)
    rw [datagram] at fits request ok fail
    exact ⟨fun rest hi => emitted_of_answer fits request hi rfl ok,
      fun rest hi => emitted_of_answer fits request hi rfl fail, waits_of_envRequest request⟩

/-! ### SEND_UDP as a composition (R201) -/

section
variable {s t u : State}

theorem sendUdpAnswered_next {a : Answer} (hstore : SameStore s u) (hid : u.ipId = s.ipId)
    (h : sendUdpAnswered a u = .next t) : ∃ e d, t = (u.emit (s.udpDatagram s.input)).commit e d := by
  by_cases ha : a = .fail
  · subst ha
    rw [sendUdpAnswered_fail hstore hid] at h
    cases h
    exact ⟨_, _, rfl⟩
  · rw [sendUdpAnswered_of_ne_fail ha hstore hid] at h
    cases h
    exact ⟨_, _, rfl⟩

/-- Where SEND_UDP goes through, its commit leaves the datagram's results, and with an OPEN handle the datagram was sent. -/
theorem exec_sendUdp_commits (hfits : s.regs.len.toNat ≤ 65527) (h : exec .sendUdp s = .next t) (hidle : t.phase = .idle) :
    ∃ (u : State) (e : ErrCode) (d : DevSub), t = (u.emit (s.udpDatagram s.input)).commit e d ∧
      (s.handle ≠ .closed → u.sent = s.sent ++ [.tx (s.udpDatagram s.input).bytes]) := by
  by_cases hc : s.handle = .closed
  · rw [exec_sendUdp_of_closed hfits hc] at h
    cases h
    exact ⟨s, _, _, rfl, fun ho => absurd hc ho⟩
  · rw [exec_sendUdp_of_open hfits hc] at h
    obtain ⟨a, rest, -, -, h⟩ | ⟨-, rfl⟩ := envRequest_next h
    · obtain ⟨e, d, rfl⟩ := sendUdpAnswered_next ⟨rfl, rfl, rfl⟩ rfl h
      exact ⟨_, e, d, rfl, fun _ => rfl⟩
    · cases hidle

/-- The registers `g` with `PLEN` and `IPCFG` as R201 sets them from `g'`: IP_ENC then forms the header of a UDP segment. -/
def Regs.aroundUdp (g g' : Regs) : Regs :=
  { g with plen := BitVec.ofNat 32 (8 + g'.len.toNat), ipcfg := (g'.ipcfg &&& 0x0000FF00#32) ||| 0x00000011#32 }

section
variable (g g' : Regs)

@[simp] theorem Regs.aroundUdp_srcAddr : (g.aroundUdp g').srcAddr = g.srcAddr := rfl
@[simp] theorem Regs.aroundUdp_dstAddr : (g.aroundUdp g').dstAddr = g.dstAddr := rfl

theorem Regs.aroundUdp_payloadLen (hfits : g'.len.toNat ≤ 65527) : (g.aroundUdp g').payloadLen = 8 + g'.len.toNat := by
  simp only [Regs.payloadLen_eq, Regs.aroundUdp, BitVec.toNat_ofNat]
  omega

theorem Regs.aroundUdp_proto : (g.aroundUdp g').proto = 17#8 := by
  simp [Regs.proto, Regs.aroundUdp, BitVec.extractLsb'_or, BitVec.extractLsb'_and]

theorem Regs.aroundUdp_ttl : (g.aroundUdp g').ttl = g'.ttl := by
  simp only [Regs.ttl, Regs.aroundUdp, BitVec.extractLsb'_or, BitVec.extractLsb'_and]
  exact BitVec.or_zero.trans BitVec.and_allOnes

end

/-- SEND_UDP's datagram is IP_ENC's header, with the operands of R201, before UDP_ENC's segment. -/
theorem State.udpDatagram_bytes_eq_append (hfits : s.regs.len.toNat ≤ 65527) (hid : u.ipId = s.ipId)
    (hsrc : u.regs.srcAddr = s.regs.srcAddr) (hdst : u.regs.dstAddr = s.regs.dstAddr) :
    (s.udpDatagram s.input).bytes =
      (State.ipArtifact { u with regs := u.regs.aroundUdp s.regs }).bytes ++ (s.regs.udpArtifact s.input).bytes := by
  simp only [State.udpDatagram, State.ipArtifact, State.length_input, Regs.aroundUdp_payloadLen _ _ hfits,
    Regs.aroundUdp_proto, Regs.aroundUdp_ttl, Regs.aroundUdp_srcAddr, Regs.aroundUdp_dstAddr, hid, hsrc, hdst]

theorem exec_ipEnc_header (s : State) : ∃ t, exec .ipEnc s = .next t ∧ t.memRead .obuf 0 20 = s.ipArtifact.bytes :=
  ⟨_, exec_ipEnc s, s.memRead_emit s.ipArtifact⟩

end

/-- Settles O48: each command leaves its artifact, and the datagram is the other two artifacts one after the other. -/
theorem sendUdpIsComposition : Obligations.SendUdpIsComposition := by
  intro s w hfits hw hidle
  obtain ⟨t, e, d, rfl, hsent⟩ := exec_sendUdp_commits hfits hw hidle
  have datagram := t.memRead_emit (s.udpDatagram s.input)
  rw [State.length_udpDatagram, State.length_input] at datagram
  obtain ⟨u, hu, -, ⟨segment, -, -, -, -, hregs⟩, -, ⟨hid, -⟩, -⟩ := exec_udpEnc_emits hfits
  rw [Regs.length_udpArtifact, State.length_input] at segment
  obtain ⟨v, hv, header⟩ := exec_ipEnc_header { u with regs := u.regs.aroundUdp s.regs }
  have append := State.udpDatagram_bytes_eq_append hfits hid (by rw [hregs]) (by rw [hregs])
  refine ⟨u, v, hu, hv, ?_⟩
  rw [header, segment, ← append]
  exact ⟨datagram, hsent⟩

end Sys2Proof.Machine
end

section
/-! The control command (46_control.md): what NOP leaves (R210). -/

namespace Sys2Proof.Machine

/-- R210: NOP has no step before its commit. -/
theorem exec_nop (s : State) : exec .nop s = finish s := rfl

/-- Settles O49: a commit straight from `s` leaves all but `STATUS` and the phase, without an error (`finish`) as with one. -/
theorem nopCommits : Obligations.NopCommits := by
  refine ⟨decode_encode .nop, by decide, fun s => ?_⟩
  have commit : exec .nop s = raise .none .none s := exec_nop s
  exact failsOnly_of_raise commit

end Sys2Proof.Machine
end

section
/-!
Exceptions (60_exceptions.md): no error stops the block (R220), and no command does, but for an answer that R180 excludes (log 4).
-/

namespace Sys2Proof.Machine

/-- The outcome is a next state; only where an answer was taken, which `answered` says, it may also be the fault of log 4. -/
def StopsOnlyIf (answered : Prop) (r : Result) : Prop := Continues r ∨ (answered ∧ r = .fault .answerNotAllowed)

section
variable {answered : Prop} {s : State}

theorem StopsOnlyIf.ite {c : Prop} [Decidable c] {r r' : Result} (h : StopsOnlyIf answered r) (h' : StopsOnlyIf answered r') :
    StopsOnlyIf answered (if c then r else r') := by
  split
  · exact h
  · exact h'

theorem StopsOnlyIf.raise {e : ErrCode} {d : DevSub} : StopsOnlyIf answered (raise e d s) := .inl .raise

theorem StopsOnlyIf.finish : StopsOnlyIf answered (finish s) := .inl .finish

theorem StopsOnlyIf.withInput {k : List Byte → Result} (hk : ∀ m, StopsOnlyIf answered (k m)) :
    StopsOnlyIf answered (withInput s k) := .ite .raise (hk _)

theorem StopsOnlyIf.withUdpPayload {k : List Byte → Result} (hk : ∀ m, StopsOnlyIf answered (k m)) :
    StopsOnlyIf answered (withUdpPayload s k) := .withInput fun m => .ite .raise (hk m)

/-- A request is the one place where a command may stop: its answer is next, and R180 excludes it. Where an answer was taken,
`answered` holds, and the requests after it need no hypothesis on the inputs. -/
theorem StopsOnlyIf.envRequest {i : Instr} {req : EnvReq} {k : Answer → State → Result} {refused : Bool}
    (h : ¬ answered → NoAnswerNext s) (hk : ∀ a u, (¬ answered → NoAnswerNext u) → StopsOnlyIf answered (k a u)) :
    StopsOnlyIf answered (envRequest i req k s refused) := by
  by_cases hanswered : answered
  · unfold Machine.envRequest
    split
    · next a rest hi =>
      rw [takeAnswer]
      split
      · exact hk a _ (absurd hanswered)
      · exact .inr ⟨hanswered, rfl⟩
    · exact .inl ⟨_, rfl⟩
  · exact .inl (.envRequest (h hanswered))

/-! The commands that ask nothing of the environment. -/

theorem execCsum_stopsOnlyIf : StopsOnlyIf answered (execCsum s) := .withInput fun _ => .finish

theorem execCsumUdp_stopsOnlyIf : StopsOnlyIf answered (execCsumUdp s) := .withInput fun _ => .finish

theorem execTcpEnc_stopsOnlyIf : StopsOnlyIf answered (execTcpEnc s) := .withInput fun _ => .finish

theorem execUdpEnc_stopsOnlyIf : StopsOnlyIf answered (execUdpEnc s) := .withUdpPayload fun _ => .finish

theorem parseInto_stopsOnlyIf (put : Regs → Word → Regs) : StopsOnlyIf answered (parseInto put s) :=
  .withInput fun m => by
    cases parseAddr m with
    | none => exact .raise
    | some v => exact .finish

/-! DEV_OPEN (R185) may stop at each of its requests. -/

theorem devOpenConfigured_stopsOnlyIf (name : List Byte) (a : Answer) (s : State) (h : ¬ answered → NoAnswerNext s) :
    StopsOnlyIf answered (devOpenConfigured name a s) :=
  .ite (.envRequest h fun _ _ _ => .raise) .finish

theorem devOpenOpened_stopsOnlyIf (name : List Byte) (a : Answer) (s : State) (h : ¬ answered → NoAnswerNext s) :
    StopsOnlyIf answered (devOpenOpened name a s) :=
  .ite .raise (.envRequest h (devOpenConfigured_stopsOnlyIf name))

theorem devOpenRequest_stopsOnlyIf (h : ¬ answered → NoAnswerNext s) : StopsOnlyIf answered (devOpenRequest s) :=
  .envRequest h (devOpenOpened_stopsOnlyIf s.regs.deviceName)

theorem execDevOpen_stopsOnlyIf (h : ¬ answered → NoAnswerNext s) : StopsOnlyIf answered (execDevOpen s) :=
  .ite (.envRequest h fun _ _ => devOpenRequest_stopsOnlyIf) (devOpenRequest_stopsOnlyIf h)

/-! The commands with one request: DEV_READ (R186), DEV_WRITE (R187), DEV_CLOSE (R188), SEND_UDP (R200). -/

theorem execDevRead_stopsOnlyIf (h : ¬ answered → NoAnswerNext s) : StopsOnlyIf answered (execDevRead s) :=
  .ite .raise (.ite (.envRequest h fun a u _ => .inl (devReadAnswered_continues a u)) .raise)

theorem transmit_stopsOnlyIf (arg0 : Bool) (d : List Byte) (h : ¬ answered → NoAnswerNext s) :
    StopsOnlyIf answered (transmit arg0 d s) :=
  .ite (.envRequest h fun _ _ _ => .ite .raise .finish) .raise

theorem execDevWrite_stopsOnlyIf (arg0 : Bool) (h : ¬ answered → NoAnswerNext s) : StopsOnlyIf answered (execDevWrite arg0 s) :=
  .ite (transmit_stopsOnlyIf arg0 _ h) (.withInput fun d => transmit_stopsOnlyIf arg0 d h)

theorem execDevClose_stopsOnlyIf (h : ¬ answered → NoAnswerNext s) : StopsOnlyIf answered (execDevClose s) :=
  .ite (.envRequest h fun _ _ _ => .finish) .finish

theorem execSendUdp_stopsOnlyIf (h : ¬ answered → NoAnswerNext s) : StopsOnlyIf answered (execSendUdp s) :=
  .withUdpPayload fun _ => .ite (.envRequest h fun _ _ _ => .ite .raise .finish) .raise

/-- R220, R97: a command ends with a commit or waits, and stops only if the answer to its request was next. -/
theorem exec_stopsOnlyIf (i : Instr) (h : ¬ answered → NoAnswerNext s) : StopsOnlyIf answered (exec i s) := by
  cases i with
  | nop => exact .finish
  | csum => exact execCsum_stopsOnlyIf
  | csumUdp => exact execCsumUdp_stopsOnlyIf
  | parseSrc => exact exec_parseSrc s ▸ parseInto_stopsOnlyIf _
  | parseDst => exact exec_parseDst s ▸ parseInto_stopsOnlyIf _
  | ipEnc => exact .finish
  | tcpEnc => exact execTcpEnc_stopsOnlyIf
  | udpEnc => exact execUdpEnc_stopsOnlyIf
  | sendUdp => exact execSendUdp_stopsOnlyIf h
  | devOpen => exact execDevOpen_stopsOnlyIf h
  | devRead => exact execDevRead_stopsOnlyIf h
  | devWrite arg0 => exact execDevWrite_stopsOnlyIf arg0 h
  | devClose => exact execDevClose_stopsOnlyIf h

end

/-- Settles O8: `exec` stops only if an answer is next, and then only by the fault of log 4. -/
theorem everyCommandRuns : Obligations.EveryCommandRuns := by
  intro i s
  have runs : StopsOnlyIf (¬ NoAnswerNext s) (exec i s) := exec_stopsOnlyIf i not_not.mp
  exact ⟨fun hnext => runs.resolve_right fun ⟨hanswer, _⟩ => hanswer hnext, runs.imp_right And.right⟩

end Sys2Proof.Machine
end

section
/-!
Reset (R250), and what a command that ends with an error leaves as it was (R262).
-/

namespace Sys2Proof.Machine

/-! ### The reset input (R250) -/

/-- R250: a descriptor may exist exactly with the handle OPEN or a request outstanding. -/
theorem State.mayHoldDescriptor_iff (s : State) :
    s.mayHoldDescriptor = true ↔ s.handle ≠ .closed ∨ ∃ i req refused, s.phase = .waitEnv i req refused := by
  rw [State.mayHoldDescriptor, Bool.or_eq_true, Handle.isOpen_eq_decide, decide_eq_true_iff]
  refine or_congr_right ?_
  cases s.phase <;> simp

theorem resetTurn_sent_of_descriptor {s : State} (h : s.mayHoldDescriptor = true) : (resetTurn s).sent = s.sent ++ [.close] :=
  if_pos h

theorem resetTurn_sent_of_no_descriptor {s : State} (h : ¬ s.mayHoldDescriptor = true) : (resetTurn s).sent = s.sent :=
  if_neg h

/-- The reset input gives every register, `STATUS` with it, the value that it has at `State.reset` (R23). -/
theorem resetTurn_readReg (s : State) (r : Reg) : (resetTurn s).readReg r = State.reset.readReg r := by
  cases r <;> rfl

/-- Settles O57: the registers are those of `State.reset`, and `Close` goes out where a descriptor may exist. -/
theorem resetEffect : Obligations.ResetEffect := by
  intro s rest hi
  obtain ⟨values, -, -⟩ := resetStateValues
  have reads (r : Reg) := (resetTurn_readReg { s with inputs := rest } r).trans (values r)
  have descriptor := State.mayHoldDescriptor_iff { s with inputs := rest }
  refine ⟨_, step_of_reset hi, reads .status, reads .tcpctl, reads .ipcfg, reads .rmax, fun r htcpctl hipcfg hrmax => ?_,
    rfl, rfl, rfl, fun h => resetTurn_sent_of_descriptor (descriptor.mpr h),
    fun h => resetTurn_sent_of_no_descriptor (mt descriptor.mp h)⟩
  rw [reads r]
  cases r
  case tcpctl => exact absurd rfl htcpctl
  case ipcfg => exact absurd rfl hipcfg
  case rmax => exact absurd rfl hrmax
  all_goals rfl

/-- The invariant does not speak of the number of resets. -/
theorem State.Inv.withResets {s : State} (h : s.Inv) (n : Nat) : State.Inv { s with resets := n } :=
  { h with }

/-- Settles O59: the reset input leaves `State.reset` as it is, but for the number of resets. -/
theorem resetStateSound : Obligations.ResetStateSound :=
  (resetTurn_inv State.reset).withResets 0

/-! ### A command that ends with an error (R262) -/

/-- If the command `i` ended at `t` with an error, other than a device error of SEND_UDP (R200), then registers and bytes are
those of `s`. -/
def FailureKeepsStore (i : Instr) (s t : State) : Prop :=
  t.phase = .idle → t.status.err ≠ .none → ¬ (i = .sendUdp ∧ t.status.err = .edev) → SameStore s t

section
variable {i : Instr} {s u : State} {e : ErrCode} {d : DevSub}

theorem SameStore.failureKeepsStore (h : SameStore s u) : FailureKeepsStore i s u := fun _ _ _ => h

/-- R224: an error raised before anything is written. -/
theorem failureKeepsStore_commit (s : State) : FailureKeepsStore i s (s.commit e d) :=
  SameStore.failureKeepsStore ⟨rfl, rfl, rfl⟩

/-- What a command wrote before it finishes counts for nothing here: it ends without an error. -/
theorem finish_failureKeepsStore : Ensures (FailureKeepsStore i s) (finish u) :=
  .finish fun _ herr => absurd rfl herr

/-- A command that waits has not ended; what it does with the answer begins with the registers and bytes of `s`. -/
theorem envRequest_failureKeepsStore {j : Instr} {req : EnvReq} {k : Answer → State → Result} {refused : Bool}
    (hk : ∀ a u, SameStore s u → Ensures (FailureKeepsStore i s) (k a u)) :
    Ensures (FailureKeepsStore i s) (envRequest j req k s refused) :=
  .envRequest (fun hidle => nomatch hidle) fun a _ => hk a _ ⟨rfl, rfl, rfl⟩

theorem withInput_failureKeepsStore {k : List Byte → Result} (hk : ∀ m, Ensures (FailureKeepsStore i s) (k m)) :
    Ensures (FailureKeepsStore i s) (withInput s k) :=
  .withInput (failureKeepsStore_commit s) fun _ => hk _

theorem withUdpPayload_failureKeepsStore {k : List Byte → Result} (hk : ∀ m, Ensures (FailureKeepsStore i s) (k m)) :
    Ensures (FailureKeepsStore i s) (withUdpPayload s k) :=
  .withUdpPayload (failureKeepsStore_commit s) (failureKeepsStore_commit s) fun _ => hk _

theorem parseInto_failureKeepsStore (put : Regs → Word → Regs) : Ensures (FailureKeepsStore i s) (parseInto put s) :=
  withInput_failureKeepsStore fun m => by
    cases parseAddr m with
    | none => exact .raise (failureKeepsStore_commit s)
    | some v => exact finish_failureKeepsStore

theorem execTcpEnc_failureKeepsStore : Ensures (FailureKeepsStore i s) (execTcpEnc s) :=
  withInput_failureKeepsStore fun _ => finish_failureKeepsStore

theorem execUdpEnc_failureKeepsStore : Ensures (FailureKeepsStore i s) (execUdpEnc s) :=
  withUdpPayload_failureKeepsStore fun _ => finish_failureKeepsStore

/-- Only `Data` lets DEV_READ write anything, and with it DEV_READ ends without an error (R186). -/
theorem devReadAnswered_failureKeepsStore (a : Answer) (u : State) (h : SameStore s u) :
    Ensures (FailureKeepsStore i s) (devReadAnswered a u) := by
  cases a with
  | data d => exact finish_failureKeepsStore
  | ok => exact .raise (SameStore.failureKeepsStore h)
  | fail => exact .raise (SameStore.failureKeepsStore h)

theorem execDevRead_failureKeepsStore : Ensures (FailureKeepsStore i s) (execDevRead s) :=
  .ite (fun _ => .raise (failureKeepsStore_commit s)) fun _ =>
    .ite (fun _ => envRequest_failureKeepsStore devReadAnswered_failureKeepsStore) fun _ =>
      .raise (failureKeepsStore_commit s)

/-- R200, R262: SEND_UDP's device errors, the one exception, stand beside the datagram's results. -/
theorem raise_edev_failureKeepsStore : Ensures (FailureKeepsStore .sendUdp s) (raise .edev d u) :=
  .raise fun _ _ hother => absurd ⟨rfl, rfl⟩ hother

theorem execSendUdp_failureKeepsStore : Ensures (FailureKeepsStore .sendUdp s) (execSendUdp s) :=
  withUdpPayload_failureKeepsStore fun _ =>
    .ite (fun _ => envRequest_failureKeepsStore fun _ _ _ =>
        .ite (fun _ => raise_edev_failureKeepsStore) fun _ => finish_failureKeepsStore) fun _ =>
      raise_edev_failureKeepsStore

/-- R262, for every command. -/
theorem exec_failureKeepsStore (i : Instr) (s : State) : Ensures (FailureKeepsStore i s) (exec i s) := by
  cases i with
  | nop => exact finish_failureKeepsStore
  | csum => exact withInput_failureKeepsStore fun _ => finish_failureKeepsStore
  | csumUdp => exact withInput_failureKeepsStore fun _ => finish_failureKeepsStore
  | parseSrc => exact exec_parseSrc s ▸ parseInto_failureKeepsStore _
  | parseDst => exact exec_parseDst s ▸ parseInto_failureKeepsStore _
  | ipEnc => exact finish_failureKeepsStore
  | tcpEnc => exact execTcpEnc_failureKeepsStore
  | udpEnc => exact execUdpEnc_failureKeepsStore
  | sendUdp => exact execSendUdp_failureKeepsStore
  | devOpen => exact fun _ h => (execDevOpen_sameStore h).failureKeepsStore
  | devRead => exact execDevRead_failureKeepsStore
  | devWrite arg0 => exact fun _ h => (execDevWrite_sameStore h).failureKeepsStore
  | devClose => exact fun _ h => (execDevClose_sameStore h).failureKeepsStore

end

/-- Settles O53: what keeps registers and memory keeps every byte. -/
theorem failedCommandsKeepOutputs : Obligations.FailedCommandsKeepOutputs := by
  intro i s t h hidle herr hother
  have kept : SameStore s t := exec_failureKeepsStore i s t h hidle herr hother
  exact ⟨kept.1, kept.sameBytes⟩

end Sys2Proof.Machine
end
